-- ==== Sys2Proof/Word.lean ====
section
/-! DEFINITION. The bit-level types: bytes, 32-bit bus words, and the wide registers as the K words they are laid out in. -/

namespace Sys2Proof

/-- One byte lane of a bus word (20_memory.md R43). -/
abbrev Byte := BitVec 8

/-- One 32-bit bus word (20_memory.md R46). -/
abbrev Word := BitVec 32

/-- A byte offset in the 4 KiB register window, 0x000 to 0xFFF (20_memory.md R44). -/
abbrev Offset := BitVec 12

/-- A wide register: its K words, word 0 (the least significant) first. 00_scope.md R9: "A wide register of W bits is
the concatenation of its K words"; 20_memory.md R42 puts word `j` at `base + 4·j`. -/
abbrev Wide := List Word

end Sys2Proof
end

