-- ==== Sys2Proof/Config.lean ====
section
/-! DEFINITION. What an implementation fixes: the range of K, the K of the closed reset state, the platform's window base. -/

namespace Sys2Proof

/-- The largest K (00_scope.md R5: 1 ≤ K ≤ 64). -/
def Config.maxK : Nat := 64

/-- The K that the closed state `State.reset` is built with. DESIGN CHOICE (log 1): K is the implementation's
parameter (00_scope.md R5); `State.k` carries it, `State.resetWith k` is the reset state of every K, and statements about
reset are over `resetWith k`. -/
def Config.K : Nat := 1

/-- ENGINE_BASE, the window's base on the host bus: the platform's choice (20_memory.md R44), so a free value. -/
opaque Config.engineBase : Nat

/-- The window's size in bytes (20_memory.md R41, R44). -/
def Config.windowBytes : Nat := 4096

end Sys2Proof
end

