-- ==== Sys2Proof/Syntax.lean ====
section
/-! DEFINITION. Syntax: the three commands, the events of the outside world, and the statements of the host assembly. -/

namespace Sys2Proof

/-- The commands, one constructor per row of spec/opcode_table.json (30_encoding.md R57). No command has an operand in its
word (R56, R58). -/
inductive Instr where
  /-- `modpow(base, exponent, modulus)`, 40_modpow.md R68. -/
  | modpow
  /-- `legendre_symbol(a, p)`, 41_legendre.md R78. -/
  | legendre
  /-- `tonelli_shanks(n, p)`, 42_tonelli_shanks.md R84. -/
  | tsqrt
deriving DecidableEq, Repr

/-- Why a string of bytes is no command (30_encoding.md R59, R60). -/
inductive DecodeError where
  /-- RSVD, bits [31:4], is not 0. -/
  | reservedBits
  /-- OP is none of 1, 2, 3. -/
  | illegalOp
  /-- Fewer than the four bytes of the one length there is (R60). -/
  | truncated
deriving DecidableEq, Repr

/-- One atomic event of the machine's outside, or the engine's turn (00_scope.md R7, R11). `size` is the access's
width in bytes: only 4 is answered (20_memory.md R46). -/
inductive Input where
  | read (off : Offset) (size : Nat)
  | write (off : Offset) (size : Nat) (v : Word)
  /-- The engine moves next: one engine step if BUSY = 1, nothing otherwise (42_tonelli_shanks.md R83). -/
  | engine
  /-- The reset input is asserted (70_reset_and_hazards.md R131). -/
  | reset
deriving DecidableEq, Repr

/-- The host assembly (30_encoding.md R62). Host variables `h0`, `h1`, … are named by their number, labels by a number.
`sum` is the last line of `getw`'s expansion, `hX <- Σ_j h_j · 2^(32j)` (R63). DESIGN CHOICE (log 7): the VALUE of `sw` is an
integer literal, and the MASK of `bnz` a 32-bit one, so `hX & MASK` is 0 beyond bit 31. -/
inductive HostStmt where
  | sw (off : Offset) (v : Int)
  | lw (x : Nat) (off : Offset)
  | command (i : Instr)
  | label (l : Nat)
  | bnz (x : Nat) (mask : Word) (l : Nat)
  | sum (x : Nat) (parts : List Nat)
  | halt
deriving DecidableEq, Repr

end Sys2Proof
end

