-- ==== Sys2Proof/WellFormed.lean ====
section
/-! DEFINITION. Well-formedness of syntax: the checks a term must pass to have a meaning. -/

namespace Sys2Proof

/-- A command word has no operand field (30_encoding.md R56), so every term of Instr is well formed: there is nothing to
check, and nothing a term could get wrong. -/
def Instr.wellFormed : Instr → Bool
  | .modpow => true
  | .legendre => true
  | .tsqrt => true

/-- The parameter's range (00_scope.md R5). -/
def kWellFormed (k : Nat) : Bool := decide (1 ≤ k ∧ k ≤ Config.maxK)

/-- The one access the window answers: 4 bytes wide, at an offset that is a multiple of 4 (20_memory.md R46). -/
def accessWellFormed (off : Offset) (size : Nat) : Bool := decide (size = 4 ∧ off.toNat % 4 = 0)

/-- An event with a meaning: an access must be one the window answers. -/
def Input.wellFormed : Input → Bool
  | .read off size => accessWellFormed off size
  | .write off size _ => accessWellFormed off size
  | .engine => true
  | .reset => true

/-- How often a host program defines a label. -/
def labelCount (prog : List HostStmt) (l : Nat) : Nat := (prog.filter (· == .label l)).length

/-- A statement of the host assembly (30_encoding.md R62) is well formed in its program: its offset is a word's, and the label
it branches to is defined exactly once. DESIGN CHOICE (log 7): R62 says nothing of a label defined twice or not at all. -/
def HostStmt.wellFormed (prog : List HostStmt) : HostStmt → Bool
  | .sw off _ => accessWellFormed off 4
  | .lw _ off => accessWellFormed off 4
  | .command i => i.wellFormed
  | .label l => labelCount prog l == 1
  | .bnz _ _ l => labelCount prog l == 1
  | .sum _ _ => true
  | .halt => true

/-- A host program each of whose statements is well formed. -/
def programWellFormed (prog : List HostStmt) : Bool := prog.all (HostStmt.wellFormed prog)

end Sys2Proof
end

