-- ==== Sys2Proof/Decode.lean ====
section
/-! DEFINITION. Decoding a command word or its bytes, total, rejecting by name; and the encoder, from the same table. -/

namespace Sys2Proof

/-- OP, bits [3:0] of a CMD word (30_encoding.md R56). -/
def opField (w : Word) : BitVec 4 := w.extractLsb' 0 4

/-- RSVD, bits [31:4] of a CMD word (30_encoding.md R56). -/
def rsvdField (w : Word) : BitVec 28 := w.extractLsb' 4 28

/-- The decoder of 30_encoding.md R61, total on every 32-bit word. -/
def decode (w : Word) : Except DecodeError Instr :=
  if rsvdField w ≠ 0 then .error .reservedBits
  else if opField w = 1 then .ok .modpow
  else if opField w = 2 then .ok .legendre
  else if opField w = 3 then .ok .tsqrt
  else .error .illegalOp

/-- Byte lane `b` of a bus word carries bits `[8b+7 : 8b]` (20_memory.md R43). -/
def byteLane (b : Nat) (w : Word) : Byte := w.extractLsb' (8 * b) 8

/-- A bus word's four bytes, the lowest address first (20_memory.md R43). -/
def bytesOfWord (w : Word) : List Byte := [byteLane 0 w, byteLane 1 w, byteLane 2 w, byteLane 3 w]

/-- The bus word a host builds from four bytes of its own memory (20_memory.md R43). -/
def wordOfBytes (b0 b1 b2 b3 : Byte) : Word := b3 ++ b2 ++ b1 ++ b0

/-- Decoding from bytes: every command is exactly one 32-bit word (30_encoding.md R60); the rest of the list is answered
beside the command. -/
def decodeBytes : List Byte → Except DecodeError (Instr × List Byte)
  | b0 :: b1 :: b2 :: b3 :: rest =>
    match decode (wordOfBytes b0 b1 b2 b3) with
    | .ok i => .ok (i, rest)
    | .error e => .error e
  | _ => .error .truncated

/-- The command's full word (30_encoding.md R57). -/
def encode : Instr → Word
  | .modpow => 0x00000001#32
  | .legendre => 0x00000002#32
  | .tsqrt => 0x00000003#32

/-- The command's bytes as the bus carries them. -/
def encodeBytes (i : Instr) : List Byte := bytesOfWord (encode i)

/-- The one word of an opcode-table row of `nbits` bits with value `w`: every bit above `nbits` is 0. -/
def tableWord (nbits w : Nat) : Word := BitVec.ofNat 32 (w % 2 ^ nbits)

/-- What the decoder reads from a row's bits, laid out as the bus carries them. -/
def decodeTableWord (nbits w : Nat) : Option Instr :=
  match decodeBytes (bytesOfWord (tableWord nbits w)) with
  | .ok (i, _) => some i
  | .error _ => none

end Sys2Proof
end

