-- ==== Sys2Proof/Machine/State.lean ====
section
/-! DEFINITION. The machine's state as plain data (10_state.md R15), its stops, and the state after reset. -/

namespace Sys2Proof.Machine

/-- The controller states of 10_state.md R37; the reserved codes 15 to 31 are never entered (R36) and have no
constructor. -/
inductive CtrlState where
  | idle | mpExec | lgExec
  | tsValidate | tsZero | tsLegendre | tsDecomp | tsFast | tsWscan | tsInit
  | tsLoop | tsIscan | tsBcomp | tsUpdate | tsCanon
deriving DecidableEq, Repr

/-- The error codes of 60_exceptions.md R114. The hardware writes only NONE and VALUE to NO_CONVERGENCE; TYPE_N, TYPE_P and
WIDTH are the host driver's own (R125, R126). -/
inductive ErrCode where
  | none | typeN | typeP | value | modulusZero | illegalCmd | witnessNotFound | noConvergence | width
deriving DecidableEq, Repr

/-- The wide registers of 10_state.md R15, in the order of their offsets. -/
inductive WideReg where
  | opa | opb | ope | result | ln | lp | le | l | odd | z | c | t | root | s | b
deriving DecidableEq, Repr

/-- The bus's answer to the last host access (00_scope.md R11). -/
inductive Response where
  /-- No access has been made. -/
  | none
  /-- A read's data (20_memory.md R48). -/
  | data (v : Word)
  /-- A write was taken (20_memory.md R47). -/
  | written
deriving DecidableEq, Repr

/-- Stops on states that no run reaches (42_tonelli_shanks.md R83, 70_reset_and_hazards.md R146), and the host program
layer's own. All are safe: the model stops where the spec gives no rule. -/
inductive Fault where
  /-- Raised by a state rule that would call the core with a modulus `≤ 0`: "The core is not defined for `m ≤ 0`"
  (40_modpow.md R67). Safe. -/
  | coreUndefined
  /-- Raised by TS_BCOMP when `M ≤ I`, where `2^(M − I − 1)` is no natural power (42_tonelli_shanks.md R95). Safe. -/
  | negativePower
  /-- Raised by an engine step with BUSY = 1 in IDLE: no state rule exists (10_state.md R37). Safe. -/
  | noRule
  /-- Raised by the host program layer when `bnz` names a label its program does not define. Safe. -/
  | badLabel
deriving DecidableEq, Repr

/-- What has no meaning. -/
inductive Refusal where
  /-- A row of the opcode table whose arm of exec has no meaning yet. Raised by exec's arms only. Safe. -/
  | notModelled (mnemonic : String)
  /-- Raised by a host access that is not an aligned 32-bit one: a bus error response and no state change; "A model treats
  such an access as a host fault (refused)" (20_memory.md R46). Safe. -/
  | busError (off : Offset) (size : Nat)
deriving DecidableEq, Repr

/-- The architectural state of 10_state.md R15, and the outside world's coming events. -/
structure State where
  /-- PARAM.K, the number of 32-bit words of a wide register (10_state.md R18). -/
  k : Nat
  /-- STATUS.BUSY (R21). -/
  busy : Bool
  /-- STATUS.DONE (R22). -/
  done : Bool
  /-- STATUS.NOROOT (R23). -/
  noroot : Bool
  /-- STATUS.OVERRUN (R24). -/
  overrun : Bool
  /-- STATUS.ERR (R25). -/
  err : ErrCode
  /-- STATUS.LASTOP (R26). -/
  lastop : BitVec 4
  /-- STATE, the controller state the next engine step executes (R36). -/
  ctrl : CtrlState
  /-- M (R31). -/
  m : Word
  /-- I (R31). -/
  i : Word
  /-- EXPONENT (R31). -/
  exponent : Word
  /-- OPA, the host's first operand (R16). -/
  opa : Wide
  /-- OPB, the host's second operand (R16). -/
  opb : Wide
  /-- OPE, the host's exponent operand (R16). -/
  ope : Wide
  /-- RESULT (R17). -/
  result : Wide
  /-- LN, the latch of OPA (R28). -/
  ln : Wide
  /-- LP, the latch of OPB (R28). -/
  lp : Wide
  /-- LE, the latch of OPE (R28). -/
  le : Wide
  /-- L, the Legendre value (R29). -/
  l : Wide
  /-- ODD (R29). -/
  odd : Wide
  /-- Z, the witness candidate (R29). -/
  z : Wide
  /-- C (R29). -/
  c : Wide
  /-- T (R29). -/
  t : Wide
  /-- ROOT (R29). -/
  root : Wide
  /-- S (R29). -/
  s : Wide
  /-- B (R29). -/
  b : Wide
  /-- The model's own: the coming events, the next one first (00_scope.md R7; log 2). -/
  inputs : List Input
  /-- The model's own: the bus's answer to the last host access (log 3). -/
  response : Response
  /-- The model's own: whether the engine is never given a turn once the listed events are over, the unfair run that
  70_reset_and_hazards.md R143 admits (log 2). -/
  stalled : Bool
deriving DecidableEq, Repr

/-- A wide register that reads 0. -/
def zeroWide (k : Nat) : Wide := List.replicate k 0#32

/-- The state after reset of an engine with parameter `k`: every register 0, STATE = IDLE, every STATUS field 0
(10_state.md R38, 70_reset_and_hazards.md R131, R133). -/
def State.resetWith (k : Nat) : State :=
  { k := k
    busy := false, done := false, noroot := false, overrun := false, err := .none, lastop := 0#4
    ctrl := .idle
    m := 0#32, i := 0#32, exponent := 0#32
    opa := zeroWide k, opb := zeroWide k, ope := zeroWide k, result := zeroWide k
    ln := zeroWide k, lp := zeroWide k, le := zeroWide k
    l := zeroWide k, odd := zeroWide k, z := zeroWide k, c := zeroWide k, t := zeroWide k
    root := zeroWide k, s := zeroWide k, b := zeroWide k
    inputs := [], response := .none, stalled := false }

/-- The machine right after reset, with the K of `Config.K` (log 1). -/
def State.reset : State := State.resetWith Config.K

end Sys2Proof.Machine
end

