-- ==== Sys2Proof/Machine/Flags.lean ====
section
/-! DEFINITION. The codes of STATE and STATUS.ERR, the STATUS and PARAM words, and the STATUS masks. The engine has no
condition codes; its only flags are the STATUS fields (10_state.md R33). -/

namespace Sys2Proof.Machine

/-- The state codes of 10_state.md R37. -/
def CtrlState.code : CtrlState → BitVec 5
  | .idle => 0#5
  | .mpExec => 1#5
  | .lgExec => 2#5
  | .tsValidate => 3#5
  | .tsZero => 4#5
  | .tsLegendre => 5#5
  | .tsDecomp => 6#5
  | .tsFast => 7#5
  | .tsWscan => 8#5
  | .tsInit => 9#5
  | .tsLoop => 10#5
  | .tsIscan => 11#5
  | .tsBcomp => 12#5
  | .tsUpdate => 13#5
  | .tsCanon => 14#5

/-- The error codes of 60_exceptions.md R114. -/
def ErrCode.code : ErrCode → BitVec 4
  | .none => 0#4
  | .typeN => 1#4
  | .typeP => 2#4
  | .value => 3#4
  | .modulusZero => 4#4
  | .illegalCmd => 5#4
  | .witnessNotFound => 6#4
  | .noConvergence => 7#4
  | .width => 8#4

/-- "The hardware writes only codes 0 and 3 to 7" (60_exceptions.md R114). -/
def ErrCode.hardware : ErrCode → Bool
  | .none => true
  | .typeN => false
  | .typeP => false
  | .value => true
  | .modulusZero => true
  | .illegalCmd => true
  | .witnessNotFound => true
  | .noConvergence => true
  | .width => false

/-- STATUS as the host reads it, its fields from the top bit down; the reserved fields read 0 (10_state.md R20, R27). -/
def statusWord (s : State) : Word :=
  0#12 ++ s.lastop ++ 0#4 ++ s.err.code ++ 0#4 ++ BitVec.ofBool s.overrun ++ BitVec.ofBool s.noroot ++
    BitVec.ofBool s.done ++ BitVec.ofBool s.busy

/-- STATE as the host reads it: the code in bits [4:0], the rest 0 (10_state.md R27, R36). -/
def stateWord (s : State) : Word := 0#27 ++ s.ctrl.code

/-- PARAM as the host reads it: K in bits [7:0], the rest 0 (10_state.md R18). -/
def paramWord (s : State) : Word := 0#24 ++ BitVec.ofNat 8 s.k

/-- STATUS masks of the host assembly (30_encoding.md R65). -/
def maskBusy : Word := 0x1#32
def maskDone : Word := 0x2#32
def maskNoroot : Word := 0x4#32
def maskOverrun : Word := 0x8#32
def maskErr : Word := 0xF00#32
def maskLastop : Word := 0xF0000#32

/-- The error code of a STATUS word, `(STATUS >> 8) & 0xF` (30_encoding.md R65). -/
def errOfStatus (w : Word) : Word := (w >>> 8) &&& 0xF#32

end Sys2Proof.Machine
end

