-- ==== Sys2Proof/Machine/Operands.lean ====
section
/-! DEFINITION. Reading registers as integers and writing integers to them (00_scope.md R9, 10_state.md R16, R28), and one
word of a wide register (20_memory.md R42). -/

namespace Sys2Proof.Machine

/-- The operand width in bits, `W = 32·K` (00_scope.md R5). -/
def bitWidth (k : Nat) : Nat := 32 * k

/-- `uval_W` of a wide register (00_scope.md R9). -/
def uval : Wide → Nat
  | [] => 0
  | w :: ws => w.toNat + 2 ^ 32 * uval ws

/-- `sval_W` of a wide register of `k` words: `uval − 2^W` where the top bit is set (00_scope.md R9). -/
def sval (k : Nat) (v : Wide) : Int :=
  if uval v < 2 ^ (bitWidth k - 1) then (uval v : Int) else (uval v : Int) - 2 ^ bitWidth k

/-- The `k` words of a natural number, the least significant first; what does not fit is dropped. -/
def wordsOf : Nat → Nat → Wide
  | 0, _ => []
  | k + 1, x => BitVec.ofNat 32 x :: wordsOf k (x / 2 ^ 32)

/-- `enc_W(x)`: the register whose `uval_W` is `x mod 2^W` (00_scope.md R9). -/
def enc (k : Nat) (x : Int) : Wide := wordsOf k (x % (2 ^ bitWidth k : Int)).toNat

/-- Word `j` of a wide register (20_memory.md R42). -/
def getWord (v : Wide) (j : Nat) : Word := v.getD j 0#32

/-- A wide register with word `j` written (20_memory.md R42, R47). -/
def setWord (v : Wide) (j : Nat) (w : Word) : Wide := v.set j w

/-- `n` of TSQRT, `a` of LEGENDRE, `base` of MODPOW: `sval_W(LN)` (10_state.md R28). -/
def opN (s : State) : Int := sval s.k s.ln

/-- `p` of TSQRT and LEGENDRE, `modulus` of MODPOW: `sval_W(LP)` (10_state.md R28). -/
def opP (s : State) : Int := sval s.k s.lp

/-- `exponent` of MODPOW: `uval_W(LE)` (10_state.md R28). -/
def opE (s : State) : Nat := uval s.le

/-- The wide registers by name (10_state.md R15). -/
def wideReg (s : State) : WideReg → Wide
  | .opa => s.opa
  | .opb => s.opb
  | .ope => s.ope
  | .result => s.result
  | .ln => s.ln
  | .lp => s.lp
  | .le => s.le
  | .l => s.l
  | .odd => s.odd
  | .z => s.z
  | .c => s.c
  | .t => s.t
  | .root => s.root
  | .s => s.s
  | .b => s.b

end Sys2Proof.Machine
end

