-- ==== Sys2Proof/Machine/Ops.lean ====
section
/-! DEFINITION. The operations the commands share: the modpow core's datapath, the three completions, accept, overrun and
reset. The engine has no trap, so `finishErr` is what taking an exception is on it (60_exceptions.md R113, R120), and there
is no return from one (R121). -/

namespace Sys2Proof.Machine

/-- What a step answers. -/
abbrev Result := Host.Outcome State Fault Refusal

/-- `modmul(x, y, m) = (x·y) mod m`, the product formed exactly (40_modpow.md R70). -/
def modmul (x y m : Int) : Int := (x * y) % m

/-- Square-and-multiply over the bits of the exponent, the least significant first; `fuel` bounds the number of bits. -/
def powBits : Nat → Int → Nat → Int → Int
  | 0, _, _, m => 1 % m
  | fuel + 1, b, e, m =>
    if e = 0 then 1 % m
    else if e % 2 = 1 then modmul b (powBits fuel (modmul b b m) (e / 2) m) m
    else powBits fuel (modmul b b m) (e / 2) m

/-- `modpow(b, e, m)`, by O(log e) modmuls (40_modpow.md R67, R72). That its value is `b^e mod m` is
`Sys2Proof.Laws.modpow_eq_pow_emod`. -/
def modpow (b : Int) (e : Nat) (m : Int) : Int := powBits (e.log2 + 1) (b % m) e m

/-- `legendre(a, p) = modpow(a, (p − 1) div 2, p)`, floor division (41_legendre.md R77). -/
def legendre (a p : Int) : Int := modpow a ((p - 1) / 2).toNat p

/-- The core is not defined for a modulus `≤ 0` (40_modpow.md R67): a state rule that would call it so stops. Every
caller has checked the modulus first, so no run comes here. -/
def withModulus (p : Int) (r : Result) : Result := if 0 < p then r else .fault .coreUndefined

/-- `finish_ok(v)` (00_scope.md R12). -/
def finishOk (v : Int) (s : State) : State :=
  { s with result := enc s.k v, busy := false, done := true, ctrl := .idle }

/-- `finish_noroot()` (00_scope.md R12). -/
def finishNoroot (s : State) : State :=
  { s with result := enc s.k 0, noroot := true, busy := false, done := true, ctrl := .idle }

/-- `finish_err(code)` (00_scope.md R12, 60_exceptions.md R113): an error is a completion carrying a code; nothing is
saved, masked or vectored. -/
def finishErr (code : ErrCode) (s : State) : State :=
  { s with result := enc s.k 0, err := code, busy := false, done := true, ctrl := .idle }

/-- What every accept does first: the flags are cleared and LASTOP takes the word's opcode (10_state.md R34). -/
def acceptClear (op : BitVec 4) (s : State) : State :=
  { s with done := false, noroot := false, overrun := false, err := .none, lastop := op }

/-- The accept of a legal command: the operands are latched, the working registers cleared, BUSY set, and STATE is the
command's entry state (10_state.md R34). RESULT is not written. -/
def acceptLegal (op : BitVec 4) (entry : CtrlState) (s : State) : State :=
  { acceptClear op s with
    ln := s.opa, lp := s.opb, le := s.ope
    l := enc s.k 0, odd := enc s.k 0, z := enc s.k 0, c := enc s.k 0, t := enc s.k 0
    root := enc s.k 0, s := enc s.k 0, b := enc s.k 0
    exponent := 0#32, m := 0#32, i := 0#32
    busy := true, ctrl := entry }

/-- The accept of an illegal word: it completes at once; latches and working registers are unchanged (10_state.md R34,
30_encoding.md R59). -/
def acceptIllegal (op : BitVec 4) (s : State) : State := finishErr .illegalCmd (acceptClear op s)

/-- A CMD write while BUSY = 1 has no effect but `OVERRUN ← 1` (10_state.md R35). -/
def overrunCmd (s : State) : State := { s with overrun := true }

/-- A command word's accept while BUSY = 0, or the overrun (10_state.md R19, R34, R35). -/
def issue (op : BitVec 4) (entry : CtrlState) (s : State) : Result :=
  if s.busy then .next (overrunCmd s) else .next (acceptLegal op entry s)

/-- The reset event: every register at its reset value, PARAM kept (70_reset_and_hazards.md R131). The schedule of coming
events and the host's last response are the outside world's and stay. -/
def resetEvent (s : State) : State :=
  { State.resetWith s.k with inputs := s.inputs, response := s.response, stalled := s.stalled }

end Sys2Proof.Machine
end

