-- ==== Sys2Proof/Machine/Legendre.lean ====
section
/-! DEFINITION. LEGENDRE: its accept, and its one engine step (41_legendre.md). -/

namespace Sys2Proof.Machine

/-- LEGENDRE written to CMD: OP = 2, entry state LG_EXEC (30_encoding.md R57, 10_state.md R34, R35). -/
def execLegendre (s : State) : Result := issue 2#4 .lgExec s

/-- State LG_EXEC (41_legendre.md R78). -/
def stepLgExec (s : State) : Result :=
  if opP s < 0 then .next (finishErr .value s)
  else if opP s = 0 then .next (finishErr .modulusZero s)
  else
    let v := legendre (opN s) (opP s)
    .next (finishOk v { s with l := enc s.k v })

end Sys2Proof.Machine
end

