-- ==== Sys2Proof/Machine/Modpow.lean ====
section
/-! DEFINITION. MODPOW: its accept, and its one engine step (40_modpow.md). -/

namespace Sys2Proof.Machine

/-- MODPOW written to CMD: OP = 1, entry state MP_EXEC (30_encoding.md R57, 10_state.md R34, R35). -/
def execModpow (s : State) : Result := issue 1#4 .mpExec s

/-- State MP_EXEC (40_modpow.md R68). -/
def stepMpExec (s : State) : Result :=
  if opP s < 0 then .next (finishErr .value s)
  else if opP s = 0 then .next (finishErr .modulusZero s)
  else .next (finishOk (modpow (opN s) (opE s) (opP s)) s)

end Sys2Proof.Machine
end

