-- ==== Sys2Proof/Machine/TonelliShanks.lean ====
section
/-! DEFINITION. TSQRT: its accept, and the state rules TS_VALIDATE to TS_CANON (42_tonelli_shanks.md R85 to R97). -/

namespace Sys2Proof.Machine

/-- TSQRT written to CMD: OP = 3, entry state TS_VALIDATE (30_encoding.md R57, 10_state.md R34, R35). -/
def execTsqrt (s : State) : Result := issue 3#4 .tsValidate s

/-- State TS_VALIDATE (42_tonelli_shanks.md R85). -/
def stepValidate (s : State) : Result :=
  if opP s < 0 then .next (finishErr .value s) else .next { s with ctrl := .tsZero }

/-- State TS_ZERO: the test is on the integer `n` itself, not on `n mod p` (42_tonelli_shanks.md R86). -/
def stepZero (s : State) : Result :=
  if opN s = 0 then .next (finishOk 0 s) else .next { s with ctrl := .tsLegendre }

/-- State TS_LEGENDRE (42_tonelli_shanks.md R87). -/
def stepLegendre (s : State) : Result :=
  if opP s = 0 then .next (finishErr .modulusZero s)
  else withModulus (opP s) <|
    let v := legendre (opN s) (opP s)
    let s1 := { s with l := enc s.k v }
    if v ≠ 1 then .next (finishNoroot s1)
    else .next { s1 with odd := enc s.k (opP s - 1), exponent := 0#32, ctrl := .tsDecomp }

/-- State TS_DECOMP: one halving a step, then the choice of branch (42_tonelli_shanks.md R88). -/
def stepDecomp (s : State) : Result :=
  let o := uval s.odd
  if o % 2 = 0 then .next { s with odd := enc s.k (o / 2 : Nat), exponent := s.exponent + 1#32, ctrl := .tsDecomp }
  else if s.exponent = 1#32 then .next { s with ctrl := .tsFast }
  else .next { s with z := enc s.k 2, ctrl := .tsWscan }

/-- State TS_FAST (42_tonelli_shanks.md R89). -/
def stepFast (s : State) : Result :=
  withModulus (opP s) <|
    .next { s with root := enc s.k (modpow (opN s) ((opP s + 1) / 4).toNat (opP s)), ctrl := .tsCanon }

/-- State TS_WSCAN: one candidate a step (42_tonelli_shanks.md R90). -/
def stepWscan (s : State) : Result :=
  let z : Int := uval s.z
  if opP s ≤ z then .next (finishErr .witnessNotFound s)
  else if legendre z (opP s) = opP s - 1 then .next { s with ctrl := .tsInit }
  else .next { s with z := enc s.k (z + 1), ctrl := .tsWscan }

/-- State TS_INIT (42_tonelli_shanks.md R91). -/
def stepInit (s : State) : Result :=
  withModulus (opP s) <|
    let o := uval s.odd
    .next { s with
      c := enc s.k (modpow (uval s.z) o (opP s))
      root := enc s.k (modpow (opN s) ((o + 1) / 2) (opP s))
      t := enc s.k (modpow (opN s) o (opP s))
      m := s.exponent
      ctrl := .tsLoop }

/-- State TS_LOOP (42_tonelli_shanks.md R93). -/
def stepLoop (s : State) : Result :=
  withModulus (opP s) <|
    let t : Int := uval s.t
    if (t - 1) % opP s = 0 then .next { s with ctrl := .tsCanon }
    else .next { s with s := enc s.k (modmul t t (opP s)), i := 1#32, ctrl := .tsIscan }

/-- State TS_ISCAN: the bound before the value (42_tonelli_shanks.md R94). -/
def stepIscan (s : State) : Result :=
  if s.m.toNat ≤ s.i.toNat then .next (finishErr .noConvergence s)
  else withModulus (opP s) <|
    let v : Int := uval s.s
    if (v - 1) % opP s = 0 then .next { s with ctrl := .tsBcomp }
    else .next { s with s := enc s.k (modmul v v (opP s)), i := s.i + 1#32, ctrl := .tsIscan }

/-- State TS_BCOMP (42_tonelli_shanks.md R95). -/
def stepBcomp (s : State) : Result :=
  if s.m.toNat ≤ s.i.toNat then .fault .negativePower
  else withModulus (opP s) <|
    .next { s with
      b := enc s.k (modpow (uval s.c) (2 ^ (s.m.toNat - s.i.toNat - 1)) (opP s)), ctrl := .tsUpdate }

/-- State TS_UPDATE: the four writes are sequential, so T reads the C just written (42_tonelli_shanks.md R96). -/
def stepUpdate (s : State) : Result :=
  withModulus (opP s) <|
    let s1 := { s with root := enc s.k (modmul (uval s.root) (uval s.b) (opP s)) }
    let s2 := { s1 with c := enc s.k (modmul (uval s1.b) (uval s1.b) (opP s)) }
    let s3 := { s2 with t := enc s.k (modmul (uval s2.t) (uval s2.c) (opP s)) }
    .next { s3 with m := s3.i, ctrl := .tsLoop }

/-- State TS_CANON: `min(root, p − root)` (42_tonelli_shanks.md R97). -/
def stepCanon (s : State) : Result :=
  let r : Int := uval s.root
  .next (finishOk (min r (opP s - r)) s)

end Sys2Proof.Machine
end

