-- ==== Sys2Proof/Machine/Controller.lean ====
section
/-! DEFINITION. The engine step: the rule of the state named by STATE (42_tonelli_shanks.md R83). -/

namespace Sys2Proof.Machine

/-- One engine step, for BUSY = 1 (42_tonelli_shanks.md R83). IDLE has no rule (10_state.md R37); no run has BUSY = 1
there. -/
def engineStep (s : State) : Result :=
  match s.ctrl with
  | .idle => .fault .noRule
  | .mpExec => stepMpExec s
  | .lgExec => stepLgExec s
  | .tsValidate => stepValidate s
  | .tsZero => stepZero s
  | .tsLegendre => stepLegendre s
  | .tsDecomp => stepDecomp s
  | .tsFast => stepFast s
  | .tsWscan => stepWscan s
  | .tsInit => stepInit s
  | .tsLoop => stepLoop s
  | .tsIscan => stepIscan s
  | .tsBcomp => stepBcomp s
  | .tsUpdate => stepUpdate s
  | .tsCanon => stepCanon s

/-- The engine's turn: a step while BUSY = 1, nothing while BUSY = 0 (10_state.md R21, 42_tonelli_shanks.md R83). -/
def engineTurn (s : State) : Result := if s.busy then engineStep s else .next s

/-- `n` turns of the engine with no host access between them. Once the command has completed, a turn changes nothing. -/
def engineRun : Nat → State → Result
  | 0, s => .next s
  | n + 1, s =>
    match engineTurn s with
    | .next s' => engineRun n s'
    | .fault f => .fault f
    | .refused r => .refused r

end Sys2Proof.Machine
end

