-- ==== Sys2Proof/Machine/Dispatch.lean ====
section
/-! DEFINITION. exec: a legal command word reaches the engine (10_state.md R19, R34, R35). -/

namespace Sys2Proof.Machine

def exec (i : Instr) (s : State) : Host.Outcome State Fault Refusal :=
  match i with
  | .modpow => Sys2Proof.Machine.execModpow s
  | .legendre => Sys2Proof.Machine.execLegendre s
  | .tsqrt => Sys2Proof.Machine.execTsqrt s

end Sys2Proof.Machine
end

