-- ==== Sys2Proof/Machine/Bus.lean ====
section
/-! DEFINITION. The register window: offset decoding, host reads and writes, and what each event of the outside does
(20_memory.md). -/

namespace Sys2Proof.Machine

/-- What an aligned word offset of the window names (20_memory.md R45). -/
inductive Target where
  | param | cmd | status | state | m | i | exponent
  | wide (r : WideReg) (j : Nat)
  | reserved
deriving DecidableEq, Repr

/-- The wide register whose 0x100-byte window has this number (10_state.md R15, 30_encoding.md R64). -/
def wideOfWindow : Nat → Option WideReg
  | 1 => some .opa
  | 2 => some .opb
  | 3 => some .ope
  | 4 => some .result
  | 5 => some .ln
  | 6 => some .lp
  | 7 => some .le
  | 8 => some .l
  | 9 => some .odd
  | 10 => some .z
  | 11 => some .c
  | 12 => some .t
  | 13 => some .root
  | 14 => some .s
  | 15 => some .b
  | _ => none

/-- A wide register's base offset (10_state.md R15, 30_encoding.md R64). -/
def wideBase : WideReg → Offset
  | .opa => 0x100#12
  | .opb => 0x200#12
  | .ope => 0x300#12
  | .result => 0x400#12
  | .ln => 0x500#12
  | .lp => 0x600#12
  | .le => 0x700#12
  | .l => 0x800#12
  | .odd => 0x900#12
  | .z => 0xA00#12
  | .c => 0xB00#12
  | .t => 0xC00#12
  | .root => 0xD00#12
  | .s => 0xE00#12
  | .b => 0xF00#12

/-- The offset of word `j` of a wide register, `base + 4·j` (20_memory.md R42). -/
def wideOffset (r : WideReg) (j : Nat) : Offset := wideBase r + BitVec.ofNat 12 (4 * j)

/-- The narrow registers' offsets (10_state.md R15, 30_encoding.md R64). -/
def offParam : Offset := 0x000#12
def offCmd : Offset := 0x004#12
def offStatus : Offset := 0x008#12
def offState : Offset := 0x00C#12
def offM : Offset := 0x010#12
def offI : Offset := 0x014#12
def offExponent : Offset := 0x018#12

/-- The narrow registers of window 0 by word number; the other words of that window are reserved (20_memory.md R45). -/
def narrowTarget : Nat → Target
  | 0 => .param
  | 1 => .cmd
  | 2 => .status
  | 3 => .state
  | 4 => .m
  | 5 => .i
  | 6 => .exponent
  | _ => .reserved

/-- Offset decoding (20_memory.md R45): word `j ≥ K` of a wide register's window is reserved. -/
def target (k : Nat) (off : Offset) : Target :=
  let j := off.toNat % 256 / 4
  match wideOfWindow (off.toNat / 256) with
  | none => narrowTarget j
  | some r => if j < k then .wide r j else .reserved

/-- The word a read returns; CMD and reserved words read 0 (20_memory.md R45, R48, 10_state.md R19). -/
def readTarget (s : State) : Target → Word
  | .param => paramWord s
  | .cmd => 0#32
  | .status => statusWord s
  | .state => stateWord s
  | .m => s.m
  | .i => s.i
  | .exponent => s.exponent
  | .wide r j => getWord (wideReg s r) j
  | .reserved => 0#32

/-- A host write of word `j` of a wide register: only OPA, OPB and OPE take it, at any time (20_memory.md R47). -/
def writeWide (r : WideReg) (j : Nat) (v : Word) (s : State) : State :=
  match r with
  | .opa => { s with opa := setWord s.opa j v }
  | .opb => { s with opb := setWord s.opb j v }
  | .ope => { s with ope := setWord s.ope j v }
  | .result | .ln | .lp | .le | .l | .odd | .z | .c | .t | .root | .s | .b => s

/-- A CMD write (10_state.md R19): dropped undecoded while BUSY = 1 (R35, 30_encoding.md R59), else decoded and accepted
(R34). -/
def writeCmd (w : Word) (s : State) : Result :=
  if s.busy then .next (overrunCmd s)
  else
    match decode w with
    | .ok i => exec i s
    | .error _ => .next (acceptIllegal (opField w) s)

/-- The effect of a write by target (20_memory.md R47). -/
def writeTarget (v : Word) (s : State) : Target → Result
  | .cmd => writeCmd v s
  | .wide r j => .next (writeWide r j v s)
  | .param | .status | .state | .m | .i | .exponent | .reserved => .next s

/-- `MemRead(off, size)`: no read has a side effect on the engine (20_memory.md R48); any access but an aligned 32-bit
one is refused (R46). -/
def hostRead (off : Offset) (size : Nat) (s : State) : Result :=
  if accessWellFormed off size then .next { s with response := .data (readTarget s (target s.k off)) }
  else .refused (.busError off size)

/-- `MemWrite(off, size, v)` (20_memory.md R46, R47). -/
def hostWrite (off : Offset) (size : Nat) (v : Word) (s : State) : Result :=
  if accessWellFormed off size then writeTarget v { s with response := .written } (target s.k off)
  else .refused (.busError off size)

/-- What one event does (00_scope.md R7). -/
def runInput : Input → State → Result
  | .read off size, s => hostRead off size s
  | .write off size v, s => hostWrite off size v s
  | .engine, s => engineTurn s
  | .reset, s => .next (resetEvent s)

/-- One step of the whole: the next listed event happens. Where none is listed the engine has its turn, which is the weak
fairness of 70_reset_and_hazards.md R143; on a stalled schedule it has none, which is the hang that R143 admits without
fairness (log 2). -/
def stepEvent (s : State) : Result :=
  match s.inputs with
  | [] => if s.stalled then .next s else engineTurn s
  | x :: rest => runInput x { s with inputs := rest }

/-- A CMD write of the word put first among the coming events, on an engine that is not busy, so that the next step
accepts it (log 4). -/
def placeCommand (s : State) (w : Word) : State :=
  { s with busy := false, ctrl := .idle, inputs := .write offCmd 4 w :: s.inputs }

/-- The bus address of an offset, and the offset of a bus address; an address outside the window never reaches the engine
(20_memory.md R44). -/
def busAddress (off : Offset) : Nat := Config.engineBase + off.toNat

def offsetOfBus (addr : Nat) : Option Offset :=
  if Config.engineBase ≤ addr ∧ addr < Config.engineBase + Config.windowBytes then
    some (BitVec.ofNat 12 (addr - Config.engineBase))
  else none

end Sys2Proof.Machine
end

