-- ==== Sys2Proof/Machine/Step.lean ====
section
/-! DEFINITION. The step: three outcomes (Host/Core.lean); and a command word placed where the next step takes it. -/

namespace Sys2Proof.Machine

/-- One step of the machine: the next event of the outside world, or the engine's turn. -/
def step (s : State) : Host.Outcome State Fault Refusal := stepEvent s

/-- `s` with the instruction of `nbits` bits `w` where the next step takes it: there is no fetch (20_memory.md R54); a
command comes as a CMD write, accepted while BUSY = 0 (10_state.md R34). -/
def State.withFetchWord (s : State) (nbits w : Nat) : State := placeCommand s (tableWord nbits w)

end Sys2Proof.Machine
end

