-- ==== Sys2Proof/Machine/HostProgram.lean ====
section
/-! DEFINITION. The host's programs: the host assembly run against the machine (30_encoding.md R62, 70_reset_and_hazards.md
R142), and the pseudo-instructions' expansions (R63). The host's control flow is its own and no engine semantics (R62). -/

namespace Sys2Proof.Machine

/-- A host running a program: host variables by number, the next statement's index, and whether `halt` was executed. A
variable nothing has written reads 0 (log 7). -/
structure HostRun where
  prog : List HostStmt
  pc : Nat
  vars : List Nat
  halted : Bool
deriving DecidableEq, Repr

/-- One host with the machine it drives. -/
structure System where
  host : HostRun
  dev : State
deriving DecidableEq, Repr

/-- Whose turn it is (00_scope.md R7). -/
inductive Turn where
  | host | engine | reset
deriving DecidableEq, Repr

/-- Host variable `hX`. -/
def getVar (vars : List Nat) (x : Nat) : Nat := vars.getD x 0

/-- `hX <- v`. -/
def setVar : List Nat → Nat → Nat → List Nat
  | [], 0, v => [v]
  | [], x + 1, v => 0 :: setVar [] x v
  | _ :: vs, 0, v => v :: vs
  | u :: vs, x + 1, v => u :: setVar vs x v

/-- `Σ_j h_j · 2^(32j)` (30_encoding.md R63). -/
def sumVars (vars : List Nat) : List Nat → Nat
  | [] => 0
  | x :: xs => getVar vars x + 2 ^ 32 * sumVars vars xs

/-- The index of a label's statement, the first where there are several. DESIGN CHOICE (log 7): 30_encoding.md R62 does not
say where a branch to a label defined twice goes. -/
def labelIndex (prog : List HostStmt) (l : Nat) : Option Nat := prog.findIdx? (· == .label l)

/-- The data the last access answered. -/
def responseData : Response → Nat
  | .none => 0
  | .data v => v.toNat
  | .written => 0

/-- The host goes on to its next statement. -/
def HostRun.advance (h : HostRun) : HostRun := { h with pc := h.pc + 1 }

/-- The system after an access of the machine, the host going on as `f` says of the machine's answer. -/
def afterAccess (r : Result) (f : State → HostRun) : Host.Outcome System Fault Refusal :=
  match r with
  | .next t => .next { host := f t, dev := t }
  | .fault e => .fault e
  | .refused e => .refused e

/-- One statement of the host assembly (30_encoding.md R62): each bus access is one event of the machine. -/
def hostStmt (st : HostStmt) (y : System) : Host.Outcome System Fault Refusal :=
  let h := y.host
  match st with
  | .sw off v => afterAccess (hostWrite off 4 (BitVec.ofInt 32 v) y.dev) fun _ => h.advance
  | .lw x off =>
    afterAccess (hostRead off 4 y.dev) fun t => { h.advance with vars := setVar h.vars x (responseData t.response) }
  | .command i => afterAccess (hostWrite offCmd 4 (encode i) y.dev) fun _ => h.advance
  | .label _ => .next { y with host := h.advance }
  | .bnz x mask l =>
    if getVar h.vars x &&& mask.toNat = 0 then .next { y with host := h.advance }
    else
      match labelIndex h.prog l with
      | some a => .next { y with host := { h with pc := a } }
      | none => .fault .badLabel
  | .sum x parts => .next { y with host := { h.advance with vars := setVar h.vars x (sumVars h.vars parts) } }
  | .halt => .next { y with host := { h with halted := true } }

/-- The host's turn: its next statement; nothing once it has halted or run out of statements. -/
def hostTurn (y : System) : Host.Outcome System Fault Refusal :=
  if y.host.halted then .next y
  else
    match y.host.prog[y.host.pc]? with
    | some st => hostStmt st y
    | none => .next y

/-- One turn of the system (00_scope.md R7). -/
def systemTurn (t : Turn) (y : System) : Host.Outcome System Fault Refusal :=
  match t with
  | .host => hostTurn y
  | .engine => afterAccess (engineTurn y.dev) fun _ => y.host
  | .reset => .next { y with dev := resetEvent y.dev }

/-- A schedule of turns; it stops at the first fault or refusal. -/
def systemRun : List Turn → System → Host.Outcome System Fault Refusal
  | [], y => .next y
  | t :: ts, y =>
    match systemTurn t y with
    | .next z => systemRun ts z
    | .fault e => .fault e
    | .refused e => .refused e

/-- The end of a run: the host's `halt` has executed and BUSY = 0 (70_reset_and_hazards.md R142). -/
def System.ended (y : System) : Bool := y.host.halted && !y.dev.busy

/-- `X` is representable as a signed W-bit value (30_encoding.md R63, 60_exceptions.md R126). -/
def fitsSigned (k : Nat) (x : Int) : Bool := decide (-(2 ^ (bitWidth k - 1)) ≤ x ∧ x < 2 ^ (bitWidth k - 1))

/-- `X` is representable as an unsigned W-bit value (30_encoding.md R63). -/
def fitsUnsigned (k : Nat) (x : Int) : Bool := decide (0 ≤ x ∧ x < 2 ^ bitWidth k)

/-- The stores of `setw REG, X` (30_encoding.md R63). -/
def setwStores (k : Nat) (r : WideReg) (x : Int) : List HostStmt :=
  (List.range k).map fun j => .sw (wideOffset r j) (getWord (enc k x) j).toNat

/-- `setw REG, X`, for OPA, OPB and OPE; it refuses an `X` the register cannot hold (30_encoding.md R63). -/
def setw (k : Nat) (r : WideReg) (x : Int) : Option (List HostStmt) :=
  match r with
  | .opa | .opb => if fitsSigned k x then some (setwStores k r x) else none
  | .ope => if fitsUnsigned k x then some (setwStores k r x) else none
  | .result | .ln | .lp | .le | .l | .odd | .z | .c | .t | .root | .s | .b => none

/-- `wait`, with its scratch variable and its label (30_encoding.md R63). -/
def waitStmts (h l : Nat) : List HostStmt := [.label l, .lw h offStatus, .bnz h maskBusy l]

/-- `getw hX, REG`, with the K scratch variables from number `h` on (30_encoding.md R63). -/
def getw (k x h : Nat) (r : WideReg) : List HostStmt :=
  (List.range k).map (fun j => HostStmt.lw (h + j) (wideOffset r j)) ++ [.sum x ((List.range k).map (h + ·))]

/-- `sqrt n, p` (30_encoding.md R63). -/
def sqrtStmts (k : Nat) (n p : Int) (h l : Nat) : Option (List HostStmt) := do
  let a ← setw k .opa n
  let b ← setw k .opb p
  return a ++ b ++ [.command .tsqrt] ++ waitStmts h l

/-- `legendre a, p` (30_encoding.md R63). -/
def legendreStmts (k : Nat) (a p : Int) (h l : Nat) : Option (List HostStmt) := do
  let x ← setw k .opa a
  let y ← setw k .opb p
  return x ++ y ++ [.command .legendre] ++ waitStmts h l

/-- `modpow b, e, m` (30_encoding.md R63). -/
def modpowStmts (k : Nat) (b e m : Int) (h l : Nat) : Option (List HostStmt) := do
  let x ← setw k .opa b
  let y ← setw k .opb m
  let z ← setw k .ope e
  return x ++ y ++ z ++ [.command .modpow] ++ waitStmts h l

end Sys2Proof.Machine
end

