-- ==== Sys2Proof/Machine/Driver.lean ====
section
/-! DEFINITION. The host driver's checks: TypeKind and operand width (60_exceptions.md R125, R126). The driver is host
software; it decides which command to issue on which operands, or reports a code of its own. -/

namespace Sys2Proof.Machine

/-- A value of the host's language: an integer, or something else with the name of its type (60_exceptions.md R125). -/
inductive HostValue where
  | int (z : Int)
  | other (typeName : String)
deriving DecidableEq, Repr

/-- What the driver does with a call: it reports a code without issuing a command, for a TypeKind with the name of the type it
met (60_exceptions.md R125), or issues a command on operands it writes; MODPOW alone uses `ope`. -/
inductive DriverAction where
  | report (code : ErrCode)
  | reportType (code : ErrCode) (typeName : String)
  | issue (i : Instr) (opa opb : Int) (ope : Nat)
deriving DecidableEq, Repr

/-- `2^(W−1) − 1`, the largest modulus (60_exceptions.md R126). -/
def maxModulus (k : Nat) : Int := 2 ^ (bitWidth k - 1) - 1

/-- A negative modulus is issued as any representable negative OPB: itself where it fits, else −1 (R126 case 1). -/
def negativeModulus (k : Nat) (p : Int) : Int := if fitsSigned k p then p else -1

/-- An operand that a check settles before it is used: itself where it fits, else 1 (log 8). -/
def unusedOperand (k : Nat) (n : Int) : Int := if fitsSigned k n then n else 1

/-- TSQRT's operand `n` on a modulus `p ≥ 0`: never a nonzero `n` as 0 (R126 case 3). -/
def tsqrtOperand (k : Nat) (n p : Int) : Int :=
  if fitsSigned k n then n else if p = 0 then 1 else if n % p = 0 then p else n % p

/-- LEGENDRE's and MODPOW's base on a modulus `m ≥ 0`: reduced where it does not fit (R126). At `m = 0` no reduction exists
and the command ends with MODULUS_ZERO whatever the base is (log 8). -/
def baseOperand (k : Nat) (b m : Int) : Int :=
  if fitsSigned k b then b else if m = 0 then 1 else b % m

/-- R126's cases for TSQRT, in order. -/
def driveTsqrtInt (k : Nat) (n p : Int) : DriverAction :=
  if p < 0 then .issue .tsqrt (unusedOperand k n) (negativeModulus k p) 0
  else if maxModulus k < p then .report .width
  else .issue .tsqrt (tsqrtOperand k n p) p 0

/-- R126's cases for LEGENDRE. -/
def driveLegendreInt (k : Nat) (a p : Int) : DriverAction :=
  if p < 0 then .issue .legendre (unusedOperand k a) (negativeModulus k p) 0
  else if maxModulus k < p then .report .width
  else .issue .legendre (baseOperand k a p) p 0

/-- R126's cases for MODPOW; the sign of the modulus is settled first, as in case 1, then the widths (log 8). -/
def driveModpowInt (k : Nat) (b : Int) (e : Nat) (m : Int) : DriverAction :=
  if m < 0 then .issue .modpow (unusedOperand k b) (negativeModulus k m) 0
  else if maxModulus k < m then .report .width
  else if 2 ^ bitWidth k ≤ e then .report .width
  else .issue .modpow (baseOperand k b m) m e

/-- The driver's `tonelli_shanks(n, p)`: the type of `n` first, then of `p`, then R126 (60_exceptions.md R125). -/
def driveTsqrt (k : Nat) : HostValue → HostValue → DriverAction
  | .other x, _ => .reportType .typeN x
  | .int _, .other y => .reportType .typeP y
  | .int n, .int p => driveTsqrtInt k n p

/-- The driver's `legendre_symbol(a, p)` (60_exceptions.md R125). -/
def driveLegendre (k : Nat) : HostValue → HostValue → DriverAction
  | .other x, _ => .reportType .typeN x
  | .int _, .other y => .reportType .typeP y
  | .int a, .int p => driveLegendreInt k a p

/-- The host statements of an action: those of the call's expansion in 30_encoding.md R63 up to its command, so that OPE is
written for MODPOW alone. DESIGN CHOICE (log 8): 60_exceptions.md R126 does not say which registers the driver writes, and
the `wait` is left to the caller. -/
def driverStmts (k : Nat) : DriverAction → List HostStmt
  | .report _ => []
  | .reportType _ _ => []
  | .issue i a b e =>
    setwStores k .opa a ++ setwStores k .opb b ++
      (match i with
        | .modpow => setwStores k .ope e
        | .legendre => []
        | .tsqrt => []) ++ [.command i]

end Sys2Proof.Machine
end

