-- ==== Sys2Proof/Machine/Fairness.lean ====
section
/-! DEFINITION. Endless schedules of a host program and the engine, and their fairness (70_reset_and_hazards.md R143). A
schedule is no part of a state; the machine's own state holds its schedule as data (log 2). -/

namespace Sys2Proof.Machine

/-- The system after the first `n` turns of an endless schedule. -/
def systemAt (sch : Nat → Turn) (n : Nat) (y : System) : Host.Outcome System Fault Refusal :=
  systemRun ((List.range n).map sch) y

/-- Weak fairness: "while BUSY = 1, the engine eventually takes its next step" (70_reset_and_hazards.md R143). -/
def WeaklyFair (sch : Nat → Turn) (y : System) : Prop :=
  ∀ n z, systemAt sch n y = .next z → z.dev.busy = true → ∃ m, n ≤ m ∧ sch m = .engine

/-- The host is never stopped for good. DEDUCED (log 2): 70_reset_and_hazards.md R143's "A host `wait` then ends" takes a host
that goes on for granted; fairness it assumes of the engine alone. -/
def HostMoves (sch : Nat → Turn) : Prop := ∀ n, ∃ m, n ≤ m ∧ sch m = .host

/-- The host stands at the first statement of a `wait` with scratch variable `x` and label `l` (30_encoding.md R63). -/
structure AtWait (y : System) (x l : Nat) : Prop where
  running : y.host.halted = false
  code : (y.host.prog.drop y.host.pc).take 3 = waitStmts x l
  label : labelIndex y.host.prog l = some y.host.pc

end Sys2Proof.Machine
end

