-- ==== Sys2Proof/Machine/Whole.lean ====
section
/-! DEFINITION. The commands at command granularity, on mathematical integers: what the engine's steps compute between an
accept and its completion (42_tonelli_shanks.md R98, R100; 40_modpow.md R68; 41_legendre.md R78). The machine does not
call these; statements compare it with them. -/

namespace Sys2Proof.Machine

/-- A command's outcome (42_tonelli_shanks.md R98: `OK(v)`, `NOROOT`, `ERR(c)`). -/
inductive CmdOutcome where
  | ok (v : Int)
  | noroot
  | err (c : ErrCode)
deriving DecidableEq, Repr

/-- The outcome the host reads once DONE = 1 (10_state.md R22, R23, R25; 70_reset_and_hazards.md R138). -/
def outcomeOf (s : State) : Option CmdOutcome :=
  if s.done then
    if s.err ≠ .none then some (.err s.err)
    else if s.noroot then some .noroot
    else some (.ok (uval s.result))
  else none

/-- MODPOW's outcome (40_modpow.md R68). -/
def modpowCmd (b : Int) (e : Nat) (m : Int) : CmdOutcome :=
  if m < 0 then .err .value else if m = 0 then .err .modulusZero else .ok (modpow b e m)

/-- LEGENDRE's outcome (41_legendre.md R78). -/
def legendreCmd (a p : Int) : CmdOutcome :=
  if p < 0 then .err .value else if p = 0 then .err .modulusZero else .ok (legendre a p)

/-- `while odd mod 2 = 0` (R98): the odd part and the count of halvings. `fuel` bounds the halvings; one more than the
number of bits is enough. -/
def halve : Nat → Nat → Nat → Nat × Nat
  | 0, o, ex => (o, ex)
  | fuel + 1, o, ex => if o % 2 = 0 then halve fuel (o / 2) (ex + 1) else (o, ex)

/-- The witness scan (R98): the smallest `z` in range with `legendre(z, p) = p − 1`. `fuel` bounds the candidates. -/
def witness (p : Int) : Nat → Int → Option Int
  | 0, _ => none
  | fuel + 1, z => if p ≤ z then none else if legendre z p = p - 1 then some z else witness p fuel (z + 1)

/-- The inner scan (R98): the smallest `i` in `[1, m − 1]` with `t^(2^i) ≡ 1`, by repeated squaring. -/
def innerScan (p : Int) (m : Nat) : Nat → Int → Nat → Option Nat
  | 0, _, _ => none
  | fuel + 1, s, i =>
    if m ≤ i then none
    else if (s - 1) % p = 0 then some i
    else innerScan p m fuel (modmul s s p) (i + 1)

/-- The outer loop (R98), with the number of engine steps from its first TS_LOOP to the completion: each pass takes
`i + 3` (R100), the last test and TS_CANON 2, a pass whose scan is exhausted `1 + max(m, 1)`. `fuel` bounds the passes;
`m + 1` is enough, because `m` strictly decreases (R96). -/
def outerLoop (p : Int) : Nat → Int → Int → Int → Nat → CmdOutcome × Nat
  | 0, _, _, _, _ => (.err .noConvergence, 0)
  | fuel + 1, root, c, t, m =>
    if (t - 1) % p = 0 then (.ok (min root (p - root)), 2)
    else
      match innerScan p m m (modmul t t p) 1 with
      | none => (.err .noConvergence, 1 + max m 1)
      | some i =>
        let b := modpow c (2 ^ (m - i - 1)) p
        let c' := modmul b b p
        let r := outerLoop p fuel (modmul root b p) c' (modmul t c' p) i
        (r.1, i + 3 + r.2)

/-- The general path of R98 from the decomposition on, and its steps from TS_WSCAN to the completion. -/
def generalPath (n p : Int) (odd ex : Nat) : CmdOutcome × Nat :=
  match witness p p.toNat 2 with
  | none => (.err .witnessNotFound, (p - 1).toNat)
  | some z =>
    let r := outerLoop p (ex + 1) (modpow n ((odd + 1) / 2) p) (modpow z odd p) (modpow n odd p) ex
    (r.1, (z - 1).toNat + 1 + r.2)

/-- The whole-command equivalent of TSQRT (R98), with the number of engine steps from accept to completion (R100). -/
def tsqrtRun (n p : Int) : CmdOutcome × Nat :=
  if p < 0 then (.err .value, 1)
  else if n = 0 then (.ok 0, 2)
  else if p = 0 then (.err .modulusZero, 3)
  else if legendre n p ≠ 1 then (.noroot, 3)
  else
    let d := halve ((p - 1).toNat.log2 + 1) (p - 1).toNat 0
    if d.2 = 1 then
      let root := modpow n ((p + 1) / 4).toNat p
      (.ok (min root (p - root)), 3 + (d.2 + 1) + 2)
    else
      let r := generalPath n p d.1 d.2
      (r.1, 3 + (d.2 + 1) + r.2)

/-- `tsqrt(n, p)` (R98). -/
def tsqrt (n p : Int) : CmdOutcome := (tsqrtRun n p).1

/-- The exact number of engine steps of TSQRT (R100). -/
def tsqrtSteps (n p : Int) : Nat := (tsqrtRun n p).2

end Sys2Proof.Machine
end

