-- ==== Sys2Proof/Safety.lean ====
section
/-! DEFINITION. What a state of a run satisfies, what one part of the state is when the rest is left out, and which events
leave a running command alone: the terms of the statements. -/

namespace Sys2Proof.Machine

/-- TSQRT's states after TS_VALIDATE has let `p ≥ 0` through (42_tonelli_shanks.md R85). -/
def CtrlState.validated : CtrlState → Bool
  | .tsZero | .tsLegendre | .tsDecomp | .tsFast | .tsWscan | .tsInit | .tsLoop | .tsIscan | .tsBcomp | .tsUpdate
  | .tsCanon => true
  | .idle | .mpExec | .lgExec | .tsValidate => false

/-- TSQRT's states after TS_ZERO has let `n ≠ 0` through (R86). -/
def CtrlState.nonzero : CtrlState → Bool
  | .tsLegendre | .tsDecomp | .tsFast | .tsWscan | .tsInit | .tsLoop | .tsIscan | .tsBcomp | .tsUpdate | .tsCanon => true
  | .idle | .mpExec | .lgExec | .tsValidate | .tsZero => false

/-- TSQRT's states after TS_LEGENDRE has found a residue (R87). -/
def CtrlState.residue : CtrlState → Bool
  | .tsDecomp | .tsFast | .tsWscan | .tsInit | .tsLoop | .tsIscan | .tsBcomp | .tsUpdate | .tsCanon => true
  | .idle | .mpExec | .lgExec | .tsValidate | .tsZero | .tsLegendre => false

/-- TSQRT's states after the decomposition is finished (R88). -/
def CtrlState.decomposed : CtrlState → Bool
  | .tsFast | .tsWscan | .tsInit | .tsLoop | .tsIscan | .tsBcomp | .tsUpdate | .tsCanon => true
  | .idle | .mpExec | .lgExec | .tsValidate | .tsZero | .tsLegendre | .tsDecomp => false

/-- TSQRT's states after the witness is found, up to the loop's end (R90 to R96). -/
def CtrlState.witnessed : CtrlState → Bool
  | .tsInit | .tsLoop | .tsIscan | .tsBcomp | .tsUpdate => true
  | .idle | .mpExec | .lgExec | .tsValidate | .tsZero | .tsLegendre | .tsDecomp | .tsFast | .tsWscan | .tsCanon => false

/-- The states of the outer loop (R93 to R96). -/
def CtrlState.looping : CtrlState → Bool
  | .tsLoop | .tsIscan | .tsBcomp | .tsUpdate => true
  | .idle | .mpExec | .lgExec | .tsValidate | .tsZero | .tsLegendre | .tsDecomp | .tsFast | .tsWscan | .tsInit
  | .tsCanon => false

/-- The states in which the inner scan's result is in use (R95, R96). -/
def CtrlState.scanned : CtrlState → Bool
  | .tsBcomp | .tsUpdate => true
  | .idle | .mpExec | .lgExec | .tsValidate | .tsZero | .tsLegendre | .tsDecomp | .tsFast | .tsWscan | .tsInit
  | .tsLoop | .tsIscan | .tsCanon => false

/-- The opcode of the command a controller state belongs to (10_state.md R37, 30_encoding.md R57); 0 for IDLE. -/
def CtrlState.opcode : CtrlState → BitVec 4
  | .idle => 0#4
  | .mpExec => 1#4
  | .lgExec => 2#4
  | .tsValidate | .tsZero | .tsLegendre | .tsDecomp | .tsFast | .tsWscan | .tsInit | .tsLoop | .tsIscan | .tsBcomp
  | .tsUpdate | .tsCanon => 3#4

/-- The machine invariant: K is legal, every wide register is K words, the STATUS fields agree with each other and with STATE
(10_state.md R21 to R25, R36, 60_exceptions.md R114), RESULT's top bit is 0 (R17), and the working registers are what
the state rules of 42_tonelli_shanks.md have made them (R32, R85 to R96). -/
structure Inv (s : State) : Prop where
  /-- 00_scope.md R5. -/
  kRange : 1 ≤ s.k ∧ s.k ≤ Config.maxK
  /-- 10_state.md R15: each wide register is W = 32·K bits. -/
  len : ∀ r, (wideReg s r).length = s.k
  /-- 42_tonelli_shanks.md R83: BUSY = 0 exactly in IDLE. -/
  busyCtrl : s.busy = false ↔ s.ctrl = .idle
  /-- 10_state.md R22: while a command runs, DONE = 0, and accept has cleared NOROOT and ERR. -/
  running : s.busy = true → s.done = false ∧ s.noroot = false ∧ s.err = .none ∧ s.lastop = s.ctrl.opcode
  /-- 10_state.md R22, R23: NOROOT is an outcome of TSQRT alone, without an error, with RESULT = 0. -/
  norootOutcome : s.noroot = true → s.done = true ∧ s.err = .none ∧ s.lastop = 3#4 ∧ uval s.result = 0
  /-- 10_state.md R25: a failed command has RESULT = 0 and NOROOT = 0. -/
  errOutcome : s.err ≠ .none → s.done = true ∧ s.noroot = false ∧ uval s.result = 0
  /-- 60_exceptions.md R114: the hardware writes only codes 0 and 3 to 7. -/
  errHardware : s.err.hardware = true
  /-- 10_state.md R17: bit W−1 of RESULT is 0. -/
  resultTop : uval s.result < 2 ^ (bitWidth s.k - 1)
  /-- 42_tonelli_shanks.md R85. -/
  validated : s.ctrl.validated = true → 0 ≤ opP s
  /-- 42_tonelli_shanks.md R86. -/
  nonzero : s.ctrl.nonzero = true → opN s ≠ 0
  /-- 42_tonelli_shanks.md R87: `v = 1`, which is possible only with `p ≥ 2`. -/
  residue : s.ctrl.residue = true → 2 ≤ opP s ∧ legendre (opN s) (opP s) = 1 ∧ uval s.l = 1
  /-- 42_tonelli_shanks.md R88: `p − 1 = ODD · 2^EXPONENT`. -/
  decomposition : s.ctrl.residue = true → (uval s.odd : Int) * 2 ^ s.exponent.toNat = opP s - 1
  /-- 42_tonelli_shanks.md R88: ODD is odd once the decomposition is finished. -/
  oddPart : s.ctrl.decomposed = true → uval s.odd % 2 = 1
  /-- 42_tonelli_shanks.md R88, R89. -/
  fastPath : s.ctrl = .tsFast → s.exponent = 1#32
  /-- 42_tonelli_shanks.md R90: the candidate stays in `[2, p]`. -/
  candidate : s.ctrl = .tsWscan → 2 ≤ uval s.z ∧ (uval s.z : Int) ≤ opP s
  /-- 42_tonelli_shanks.md R90: the witness lies in `[2, p)`. -/
  witness : s.ctrl.witnessed = true → 2 ≤ uval s.z ∧ legendre (uval s.z) (opP s) = opP s - 1 ∧ (uval s.z : Int) < opP s
  /-- 42_tonelli_shanks.md R90, R106: no smaller candidate is a non-residue. -/
  smallest : s.ctrl = .tsWscan ∨ s.ctrl.witnessed = true →
    ∀ y : Nat, 2 ≤ y → y < uval s.z → legendre y (opP s) ≠ opP s - 1
  /-- 10_state.md R32: C, T and ROOT are in `[0, p)`, and M ≤ EXPONENT. -/
  loopRange : s.ctrl.looping = true →
    (uval s.c : Int) < opP s ∧ (uval s.t : Int) < opP s ∧ (uval s.root : Int) < opP s ∧ s.m.toNat ≤ s.exponent.toNat
  /-- 42_tonelli_shanks.md R93, R94: the inner scan starts at 1 and never passes `max(M, 1)`. DEDUCED (log 10): 10_state.md
  R32 says `I ≤ M`, which the state rules do not keep at `M = 0`. -/
  scanRange : s.ctrl = .tsIscan → 1 ≤ s.i.toNat ∧ s.i.toNat ≤ max s.m.toNat 1 ∧ (uval s.s : Int) < opP s
  /-- 42_tonelli_shanks.md R94: TS_ISCAN leaves for TS_BCOMP only with `1 ≤ I < M`. -/
  scannedRange : s.ctrl.scanned = true → 1 ≤ s.i.toNat ∧ s.i.toNat < s.m.toNat
  /-- 10_state.md R32: B is in `[0, p)`. -/
  updateRange : s.ctrl = .tsUpdate → (uval s.b : Int) < opP s
  /-- 42_tonelli_shanks.md R97: `r ∈ [0, p)`. -/
  canonRange : s.ctrl = .tsCanon → (uval s.root : Int) < opP s

/-- The loop's own invariant: `root² ≡ n·t (mod p)` throughout the outer loop (42_tonelli_shanks.md R92); in the inner scan
`S = t^(2^I) mod p`, and every `i` already passed has `t^(2^i) ≢ 1`; what the scan hands on is its first hit (R94). -/
structure LoopInv (s : State) : Prop where
  rootSquare : s.ctrl.looping = true →
    ((uval s.root : Int) * uval s.root) % opP s = (opN s * uval s.t) % opP s
  scanPower : s.ctrl = .tsIscan → (uval s.s : Int) = ((uval s.t : Int) ^ 2 ^ s.i.toNat) % opP s
  scanMiss : s.ctrl = .tsIscan ∨ s.ctrl.scanned = true →
    ∀ j : Nat, 1 ≤ j → j < s.i.toNat → ((uval s.t : Int) ^ 2 ^ j - 1) % opP s ≠ 0
  scanHit : s.ctrl.scanned = true → ((uval s.t : Int) ^ 2 ^ s.i.toNat - 1) % opP s = 0

/-- What holds in the outer loop for an odd prime modulus, beyond `LoopInv`: `t^(2^(m−1)) ≡ 1` and `c^(2^(m−1)) ≡ −1`
(42_tonelli_shanks.md R92), with `m ≥ 1`; `t ≢ 1` once TS_LOOP has gone on to the scan (R93); and what B holds after TS_BCOMP
(R95). DEDUCED (log 16): R92 says `t^(2^m) ≡ 1` of every modulus, which the state rules do not keep at an even one. -/
structure PrimeLoopInv (s : State) : Prop where
  order : s.ctrl.looping = true → Nat.Prime (opP s).toNat → opP s ≠ 2 →
    1 ≤ s.m.toNat ∧ ((uval s.t : Int) ^ 2 ^ (s.m.toNat - 1) - 1) % opP s = 0 ∧
      ((uval s.c : Int) ^ 2 ^ (s.m.toNat - 1) + 1) % opP s = 0
  notOne : s.ctrl = .tsIscan ∨ s.ctrl.scanned = true → ((uval s.t : Int) - 1) % opP s ≠ 0
  power : s.ctrl = .tsUpdate → (uval s.b : Int) = (uval s.c : Int) ^ 2 ^ (s.m.toNat - s.i.toNat - 1) % opP s

/-- A command has completed with this error code, NOROOT tag and RESULT (00_scope.md R12). -/
structure Completed (t : State) (e : ErrCode) (nr : Bool) (v : Int) : Prop where
  busy : t.busy = false
  done : t.done = true
  ctrl : t.ctrl = .idle
  err : t.err = e
  noroot : t.noroot = nr
  result : (uval t.result : Int) = v

/-- From `s`, a command has completed with this outcome, and nothing but STATUS, RESULT and STATE has changed
(60_exceptions.md R120). -/
structure CompletesFrom (s t : State) (e : ErrCode) (nr : Bool) (v : Int) : Prop extends Completed t e nr v where
  frame : t = { s with
    result := t.result, err := t.err, noroot := t.noroot, busy := t.busy, done := t.done, ctrl := t.ctrl }

/-- The command goes on in this controller state (42_tonelli_shanks.md R83). -/
structure GoesOn (t : State) (c : CtrlState) : Prop where
  busy : t.busy = true
  done : t.done = false
  ctrl : t.ctrl = c

/-- Everything of the engine but what host accesses touch: OPA, OPB, OPE, OVERRUN, the schedule of coming events and the
bus's answer are blanked (42_tonelli_shanks.md R101). -/
def coreView (s : State) : State :=
  { s with opa := [], opb := [], ope := [], overrun := false, inputs := [], response := .none, stalled := false }

/-- The state with the schedule of coming events and the bus's answer blanked: the spec's registers alone (10_state.md
R15). -/
def registersOf (s : State) : State := { s with inputs := [], response := .none, stalled := false }

/-- An event that cannot start or drop a command: the engine's turn, or an aligned 32-bit access that is no CMD write
(20_memory.md R47). -/
def quiet : Input → Bool
  | .read off size => accessWellFormed off size
  | .write off size _ => accessWellFormed off size && off != offCmd
  | .engine => true
  | .reset => false

/-- How many of the events are the engine's turns. -/
def engineTurns (xs : List Input) : Nat := xs.count .engine

end Sys2Proof.Machine
end

