-- ==== Sys2Proof/Certificates/Slice0/Obligations.lean ====
section
/-! DEFINITION. The statements for the provers, from the spec's numbered rules. -/

open Sys2Proof Sys2Proof.Machine

/-! ## Encoding -/

/-- 30_encoding.md R66: the worked encodings. -/
def Obligations.WorkedEncodingsDecode : Prop :=
  decode 0x00000003#32 = .ok .tsqrt ∧ decode 0x00000001#32 = .ok .modpow ∧
  decode 0x00000000#32 = .error .illegalOp ∧ decode 0x00000004#32 = .error .illegalOp ∧
  decode 0x00000013#32 = .error .reservedBits ∧ decode 0x80000002#32 = .error .reservedBits

/-- 30_encoding.md R57, R61: the decoder answers a command for the command's full word and for no other of the 2^32 words. -/
def Obligations.DecoderAcceptsExactlyTheThreeWords : Prop :=
  ∀ w : Word,
    (decode w = .ok .modpow ↔ w.toNat = 1) ∧ (decode w = .ok .legendre ↔ w.toNat = 2) ∧
    (decode w = .ok .tsqrt ↔ w.toNat = 3) ∧
    (w.toNat / 16 ≠ 0 ∨ w.toNat % 16 ∉ [1, 2, 3] → ∃ e, decode w = .error e)

/-- Decoding from bytes and encoding to bytes agree both ways (30_encoding.md R60, R61; 20_memory.md R43). -/
def Obligations.DecodeBytesInvertsEncodeBytes : Prop :=
  (∀ (i : Instr) (rest : List Byte), i.wellFormed = true → decodeBytes (encodeBytes i ++ rest) = .ok (i, rest)) ∧
  ∀ (bs : List Byte) (i : Instr) (rest : List Byte), decodeBytes bs = .ok (i, rest) → bs = encodeBytes i ++ rest

/-! ## The step, accept and overrun -/

/-- A CMD write of a command's word on an idle engine is exec of that command; `withFetchWord` places such a write
(10_state.md R19, 20_memory.md R54; the place in `inputs` is the model's choice, log 2 and log 4). -/
def Obligations.StepRunsTheDecodedCommand : Prop :=
  ∀ (s : State) (w : Word) (i : Instr), decode w = .ok i →
    (∀ rest, s.busy = false → s.inputs = .write offCmd 4 w :: rest →
      step s = exec i { s with inputs := rest, response := .written }) ∧
    step (s.withFetchWord 32 w.toNat) = exec i { s with busy := false, ctrl := .idle, response := .written }

/-- 10_state.md R34: what a CMD write does while BUSY = 0, the legal and the illegal word alike, written out in full: every
register not named keeps its value. -/
def Obligations.CmdWriteWhileIdleAccepts : Prop :=
  ∀ (s : State) (w : Word) (rest : List Input), s.busy = false → s.inputs = .write offCmd 4 w :: rest →
    step s = .next (
      if w.toNat / 16 ≠ 0 ∨ w.toNat % 16 ∉ [1, 2, 3] then
        { s with
          inputs := rest, response := .written
          noroot := false, overrun := false, err := .illegalCmd, lastop := BitVec.ofNat 4 (w.toNat % 16)
          result := enc s.k 0, busy := false, done := true, ctrl := .idle }
      else
        { s with
          inputs := rest, response := .written
          done := false, noroot := false, overrun := false, err := .none, lastop := BitVec.ofNat 4 (w.toNat % 16)
          ln := s.opa, lp := s.opb, le := s.ope
          l := enc s.k 0, odd := enc s.k 0, z := enc s.k 0, c := enc s.k 0, t := enc s.k 0
          root := enc s.k 0, s := enc s.k 0, b := enc s.k 0
          exponent := 0#32, m := 0#32, i := 0#32
          busy := true
          ctrl := if w.toNat % 16 = 1 then .mpExec else if w.toNat % 16 = 2 then .lgExec else .tsValidate })

/-- 10_state.md R35: a CMD write while BUSY = 1 sets OVERRUN and does nothing else, whatever the word. -/
def Obligations.CmdWriteWhileBusyOnlySetsOverrun : Prop :=
  ∀ (s : State) (w : Word) (rest : List Input), s.busy = true → s.inputs = .write offCmd 4 w :: rest →
    step s = .next { s with inputs := rest, response := .written, overrun := true }

/-- The STATUS word after an illegal command word, DONE and ERR = ILLEGAL_CMD beside its opcode, and RESULT = 0
(30_encoding.md R59, 60_exceptions.md R114, the table of 95_test_vectors.md 2.1). -/
def Obligations.IllegalWordStatus : Prop :=
  ∀ (s : State) (w : Word) (rest : List Input) (e : DecodeError), s.busy = false →
    s.inputs = .write offCmd 4 w :: rest → decode w = .error e →
    ∃ t, step s = .next t ∧ (statusWord t).toNat = (w.toNat % 16) * 2 ^ 16 + 0x502 ∧ (stateWord t).toNat = 0 ∧
      uval t.result = 0

/-! ## The commands -/

/-- 40_modpow.md R68: MODPOW from its accept to its completion, one engine step later. The operands are OPA (signed), OPB
(signed) and OPE (unsigned) at the accept; the working registers stay 0. -/
def Obligations.ModpowComputesThePower : Prop :=
  encode .modpow = 0x00000001#32 ∧
  ∀ s : State, Inv s → s.busy = false →
    ∃ t u, exec .modpow s = .next t ∧ GoesOn t .mpExec ∧ engineTurn t = .next u ∧
      (sval s.k s.opb < 0 → Completed u .value false 0) ∧
      (sval s.k s.opb = 0 → Completed u .modulusZero false 0) ∧
      (1 ≤ sval s.k s.opb → Completed u .none false (sval s.k s.opa ^ uval s.ope % sval s.k s.opb)) ∧
      (∀ r ∈ [u.l, u.odd, u.z, u.c, u.t, u.root, u.s, u.b], uval r = 0) ∧
      u.exponent = 0#32 ∧ u.m = 0#32 ∧ u.i = 0#32

/-- 41_legendre.md R78: LEGENDRE from its accept to its completion, one engine step later; L holds the value too. -/
def Obligations.LegendreComputesEulersPower : Prop :=
  encode .legendre = 0x00000002#32 ∧
  ∀ s : State, Inv s → s.busy = false →
    ∃ t u, exec .legendre s = .next t ∧ GoesOn t .lgExec ∧ engineTurn t = .next u ∧
      (sval s.k s.opb < 0 → Completed u .value false 0 ∧ uval u.l = 0) ∧
      (sval s.k s.opb = 0 → Completed u .modulusZero false 0 ∧ uval u.l = 0) ∧
      (1 ≤ sval s.k s.opb →
        Completed u .none false (sval s.k s.opa ^ ((sval s.k s.opb - 1) / 2).toNat % sval s.k s.opb) ∧ u.l = u.result) ∧
      (∀ r ∈ [u.odd, u.z, u.c, u.t, u.root, u.s, u.b], uval r = 0) ∧
      u.exponent = 0#32 ∧ u.m = 0#32 ∧ u.i = 0#32

/-- 41_legendre.md R79: for an odd prime `p` the RESULT of LEGENDRE classifies `a`. -/
def Obligations.LegendreClassifiesResidues : Prop :=
  ∀ (s : State) (a p : Int), Inv s → s.busy = false → a = sval s.k s.opa → p = sval s.k s.opb →
    Nat.Prime p.toNat → p ≠ 2 →
    ∃ t u, exec .legendre s = .next t ∧ engineTurn t = .next u ∧
      ((uval u.result : Int) = 1 ↔ a % p ≠ 0 ∧ ∃ x : Int, x * x % p = a % p) ∧
      ((uval u.result : Int) = p - 1 ↔ ¬ ∃ x : Int, x * x % p = a % p) ∧
      ((uval u.result : Int) = 0 ↔ a % p = 0) ∧
      ((uval u.result : Int) = 1 ∨ (uval u.result : Int) = p - 1 ∨ (uval u.result : Int) = 0)

/-- 42_tonelli_shanks.md R98: TSQRT's state rules, run from the accept, compute the whole-command function of the latched
`(n, p)`, in exactly the number of engine steps that R100 counts; before that the command is still running. -/
def Obligations.TsqrtRefinesTheWholeCommand : Prop :=
  ∀ s : State, Inv s → s.busy = false →
    ∃ t u, exec .tsqrt s = .next t ∧ GoesOn t .tsValidate ∧
      engineRun (tsqrtSteps (sval s.k s.opa) (sval s.k s.opb)) t = .next u ∧ u.busy = false ∧ u.ctrl = .idle ∧
      outcomeOf u = some (tsqrt (sval s.k s.opa) (sval s.k s.opb)) ∧
      ((∀ v, tsqrt (sval s.k s.opa) (sval s.k s.opb) ≠ .ok v) → uval u.result = 0) ∧
      ∀ j < tsqrtSteps (sval s.k s.opa) (sval s.k s.opb), ∃ v, engineRun j t = .next v ∧ v.busy = true

/-- 42_tonelli_shanks.md R107: what the working registers hold when TSQRT has completed: 0 where no step has written them, the
Legendre value of `n` in L, the finished decomposition in ODD and EXPONENT, the fast path's power in ROOT, and the witness in
Z, or `p` where the scan has failed; a failed scan leaves the loop's registers 0, a loop whose body never runs leaves those
of TS_INIT beside S, B and I at 0, and an inner scan exhausted in the first pass leaves B at 0. -/
def Obligations.TsqrtWorkingRegistersAtCompletion : Prop :=
  ∀ (s : State) (n p : Int), Inv s → s.busy = false → n = sval s.k s.opa → p = sval s.k s.opb →
    ∃ t u, exec .tsqrt s = .next t ∧ engineRun (tsqrtSteps n p) t = .next u ∧ u.busy = false ∧
      u.ln = s.opa ∧ u.lp = s.opb ∧ u.le = s.ope ∧
      (p ≤ 0 ∨ n = 0 → uval u.l = 0) ∧
      (1 ≤ p → n ≠ 0 → (uval u.l : Int) = legendre n p) ∧
      (p ≤ 0 ∨ n = 0 ∨ legendre n p ≠ 1 →
        (∀ r ∈ [u.odd, u.z, u.c, u.t, u.root, u.s, u.b], uval r = 0) ∧ u.exponent = 0#32 ∧ u.m = 0#32 ∧ u.i = 0#32) ∧
      (1 ≤ p → n ≠ 0 → legendre n p = 1 →
        uval u.odd % 2 = 1 ∧ (uval u.odd : Int) * 2 ^ u.exponent.toNat = p - 1 ∧
        (u.exponent.toNat = 1 →
          (uval u.root : Int) = n ^ ((p + 1) / 4).toNat % p ∧
          (∀ r ∈ [u.z, u.c, u.t, u.s, u.b], uval r = 0) ∧ u.m = 0#32 ∧ u.i = 0#32) ∧
        (u.exponent.toNat ≠ 1 → tsqrt n p = .err .witnessNotFound →
          (uval u.z : Int) = p ∧ (∀ r ∈ [u.c, u.t, u.root, u.s, u.b], uval r = 0) ∧ u.m = 0#32 ∧ u.i = 0#32) ∧
        (u.exponent.toNat ≠ 1 → tsqrt n p ≠ .err .witnessNotFound →
          witness p p.toNat 2 = some (uval u.z : Int) ∧
          ((n ^ uval u.odd - 1) % p = 0 →
            (uval u.c : Int) = (uval u.z : Int) ^ uval u.odd % p ∧
            (uval u.root : Int) = n ^ ((uval u.odd + 1) / 2) % p ∧ (uval u.t : Int) = n ^ uval u.odd % p ∧
            u.m = u.exponent ∧ uval u.s = 0 ∧ uval u.b = 0 ∧ u.i = 0#32) ∧
          ((∀ i : Nat, 1 ≤ i → i < u.exponent.toNat → ((n ^ uval u.odd) ^ 2 ^ i - 1) % p ≠ 0) → uval u.b = 0)))

/-- The step bound behind 42_tonelli_shanks.md R100 and 70_reset_and_hazards.md R146, for every `n` and every modulus a
W-bit register holds. -/
def Obligations.TsqrtStepsAreBounded : Prop :=
  ∀ (k : Nat) (n p : Int), 1 ≤ k → p < 2 ^ (bitWidth k - 1) →
    1 ≤ tsqrtSteps n p ∧
    tsqrtSteps n p ≤ 6 + (bitWidth k - 2) + p.toNat + (bitWidth k - 2) * (bitWidth k + 1)

/-- 42_tonelli_shanks.md R104: on an odd prime the root of a square is the smaller of its two roots. -/
def Obligations.TsqrtOfASquareIsTheSmallerRoot : Prop :=
  ∀ n p : Int, Nat.Prime p.toNat → p ≠ 2 → 1 ≤ n → n ≤ p - 1 →
    tsqrt (n * n % p) p = .ok (min n (p - n)) ∧ (min n (p - n)) * (min n (p - n)) % p = n ^ 2 % p

/-- TSQRT on an odd prime decides: a nonzero residue gets a root in `[0, p)`, the smaller one; every other nonzero `n` gets
NoRootSignal; no error occurs (00_scope.md R1, 42_tonelli_shanks.md R99, R110). -/
def Obligations.TsqrtDecidesOnOddPrimes : Prop :=
  ∀ n p : Int, Nat.Prime p.toNat → p ≠ 2 → n ≠ 0 →
    ((n % p ≠ 0 ∧ ∃ x : Int, x * x % p = n % p) →
      ∃ r, tsqrt n p = .ok r ∧ 0 ≤ r ∧ r < p ∧ r ≤ p - r ∧ r * r % p = n % p) ∧
    (¬ (n % p ≠ 0 ∧ ∃ x : Int, x * x % p = n % p) → tsqrt n p = .noroot)

/-- 42_tonelli_shanks.md R103: the outcome depends on `n` through its residue, but for nonzero multiples of `p`. -/
def Obligations.TsqrtReducesItsOperand : Prop :=
  (∀ n p : Int, 1 ≤ p → (n = 0 ∨ n % p ≠ 0) → tsqrt n p = tsqrt (n % p) p) ∧
  tsqrt 9 7 = .ok 3 ∧ tsqrt (-5) 7 = .ok 3 ∧ tsqrt 2 7 = .ok 3

/-- The literal-zero quirk (42_tonelli_shanks.md R102). At `p = 2` R80 and R105 give the nonzero multiples WITNESS_NOT_FOUND,
and the state rules agree with them, so R102's clause is stated for `p ≠ 2` and that case apart (log 9). -/
def Obligations.TsqrtTakesOnlyLiteralZeroAsZero : Prop :=
  (∀ p : Int, 0 ≤ p → tsqrt 0 p = .ok 0) ∧
  ∀ k p : Int, k ≠ 0 → 1 ≤ p →
    (p ≠ 2 → tsqrt (k * p) p = .noroot) ∧ (p = 2 → tsqrt (k * p) p = .err .witnessNotFound)

/-- 42_tonelli_shanks.md R105: the degenerate moduli. -/
def Obligations.TsqrtOnDegenerateModuli : Prop :=
  tsqrt 0 0 = .ok 0 ∧ (∀ n : Int, n ≠ 0 → tsqrt n 0 = .err .modulusZero) ∧
  tsqrt 0 1 = .ok 0 ∧ (∀ n : Int, n ≠ 0 → tsqrt n 1 = .noroot) ∧
  (∀ n : Int, n ≠ 0 → tsqrt n 2 = .err .witnessNotFound) ∧
  tsqrt 1 4 = .ok 1 ∧ tsqrt 1 9 = .err .witnessNotFound ∧ tsqrt 16 85 = .err .noConvergence ∧ tsqrt 10 21 = .noroot

/-- 42_tonelli_shanks.md R106: the scan's witness is the smallest in `[2, p)`, and the scan fails only where none exists. -/
def Obligations.WitnessScanFindsTheSmallest : Prop :=
  ∀ p : Int,
    (∀ z, witness p p.toNat 2 = some z →
      2 ≤ z ∧ z < p ∧ legendre z p = p - 1 ∧ ∀ y, 2 ≤ y → y < z → legendre y p ≠ p - 1) ∧
    (witness p p.toNat 2 = none → ∀ y, 2 ≤ y → y < p → legendre y p ≠ p - 1) ∧
    witness 5 5 2 = some 2 ∧ witness 13 13 2 = some 2 ∧ witness 17 17 2 = some 3 ∧ witness 41 41 2 = some 3 ∧
    witness 113 113 2 = some 3 ∧ witness 97 97 2 = some 5

/-- 40_modpow.md R69 and R71: reduction of the base, and modmul and modpow of powers of two. -/
def Obligations.ModpowReducesAndIsRepeatedSquaring : Prop :=
  ∀ (x y m : Int), 1 ≤ m →
    (∀ e, modpow x e m = modpow (x % m) e m) ∧
    modmul x y m = modmul (x % m) (y % m) m ∧
    modpow x 2 m = modmul x x m ∧
    ∀ k, modpow x (2 ^ k) m = (fun v => modmul v v m)^[k] (x % m)

/-! ## The state rules

Each says the successor state with every register it writes at its integer value, and that no other register changes. -/

/-- 42_tonelli_shanks.md R85, R86, R87: validation, the literal zero, the residue test. -/
def Obligations.ValidationAndResidueStates : Prop :=
  ∀ s : State, Inv s →
    (s.ctrl = .tsValidate → ∃ t, engineTurn s = .next t ∧
      (opP s < 0 → CompletesFrom s t .value false 0) ∧ (0 ≤ opP s → t = { s with ctrl := .tsZero })) ∧
    (s.ctrl = .tsZero → ∃ t, engineTurn s = .next t ∧
      (opN s = 0 → CompletesFrom s t .none false 0) ∧ (opN s ≠ 0 → t = { s with ctrl := .tsLegendre })) ∧
    (s.ctrl = .tsLegendre → ∃ t, engineTurn s = .next t ∧
      (opP s = 0 → CompletesFrom s t .modulusZero false 0) ∧
      (1 ≤ opP s →
        (uval t.l : Int) = opN s ^ ((opP s - 1) / 2).toNat % opP s ∧
        (uval t.l ≠ 1 → CompletesFrom { s with l := t.l } t .none true 0) ∧
        (uval t.l = 1 →
          2 ≤ opP s ∧ (uval t.odd : Int) = opP s - 1 ∧
          t = { s with l := t.l, odd := t.odd, exponent := 0#32, ctrl := .tsDecomp })))

/-- 42_tonelli_shanks.md R88, R89: one halving a step, the choice of branch, the direct formula; from EXPONENT = 0 the
state runs EXPONENT + 1 times. -/
def Obligations.DecompositionAndFastStates : Prop :=
  ∀ s : State, Inv s →
    (s.ctrl = .tsDecomp → ∃ t, engineTurn s = .next t ∧
      (uval s.odd % 2 = 0 →
        uval t.odd = uval s.odd / 2 ∧ t.exponent.toNat = s.exponent.toNat + 1 ∧
        t = { s with odd := t.odd, exponent := t.exponent }) ∧
      (uval s.odd % 2 = 1 → (uval s.odd : Int) * 2 ^ s.exponent.toNat = opP s - 1) ∧
      (uval s.odd % 2 = 1 → s.exponent.toNat = 1 → t = { s with ctrl := .tsFast }) ∧
      (uval s.odd % 2 = 1 → s.exponent.toNat ≠ 1 → uval t.z = 2 ∧ t = { s with z := t.z, ctrl := .tsWscan })) ∧
    (s.ctrl = .tsDecomp → s.exponent.toNat = 0 → ∃ (e : Nat) (t : State), engineRun (e + 1) s = .next t ∧
      t.exponent.toNat = e ∧ (t.ctrl = .tsFast ∨ t.ctrl = .tsWscan) ∧
      ∀ j ≤ e, ∃ u, engineRun j s = .next u ∧ u.ctrl = .tsDecomp) ∧
    (s.ctrl = .tsFast → ∃ t, engineTurn s = .next t ∧
      (uval t.root : Int) = opN s ^ ((opP s + 1) / 4).toNat % opP s ∧ (opP s + 1) % 4 = 0 ∧
      t = { s with root := t.root, ctrl := .tsCanon })

/-- 42_tonelli_shanks.md R90, R91: one candidate a step, in rising order, so that the witness is the smallest, and there is one
for an odd prime; and the loop's initial values. -/
def Obligations.WitnessAndInitStates : Prop :=
  ∀ s : State, Inv s →
    (s.ctrl = .tsWscan → ∃ t, engineTurn s = .next t ∧
      (∀ y : Nat, 2 ≤ y → y < uval s.z → legendre y (opP s) ≠ opP s - 1) ∧
      (Nat.Prime (opP s).toNat → opP s ≠ 2 → (uval s.z : Int) < opP s) ∧
      (opP s ≤ uval s.z → CompletesFrom s t .witnessNotFound false 0) ∧
      ((uval s.z : Int) < opP s →
        ((uval s.z : Int) ^ ((opP s - 1) / 2).toNat % opP s = opP s - 1 → t = { s with ctrl := .tsInit }) ∧
        ((uval s.z : Int) ^ ((opP s - 1) / 2).toNat % opP s ≠ opP s - 1 →
          uval t.z = uval s.z + 1 ∧ t = { s with z := t.z }))) ∧
    (s.ctrl = .tsInit → ∃ t, engineTurn s = .next t ∧
      (uval t.c : Int) = (uval s.z : Int) ^ uval s.odd % opP s ∧
      (uval t.root : Int) = opN s ^ ((uval s.odd + 1) / 2) % opP s ∧ (uval s.odd + 1) % 2 = 0 ∧
      (uval t.t : Int) = opN s ^ uval s.odd % opP s ∧
      t = { s with c := t.c, root := t.root, t := t.t, m := s.exponent, ctrl := .tsLoop })

/-- 42_tonelli_shanks.md R93, R94: the outer loop's test and the inner scan, its bound before its value; on the scan's
entry `S = t^(2^I) mod p`, and for an odd prime the bound is not met. -/
def Obligations.LoopAndScanStates : Prop :=
  ∀ s : State, Inv s → LoopInv s →
    (s.ctrl = .tsLoop → 3 ≤ opP s ∧ ∃ t, engineTurn s = .next t ∧
      (((uval s.t : Int) - 1) % opP s = 0 ↔ uval s.t = 1) ∧
      (((uval s.t : Int) - 1) % opP s = 0 → t = { s with ctrl := .tsCanon }) ∧
      (((uval s.t : Int) - 1) % opP s ≠ 0 →
        (uval t.s : Int) = (uval s.t * uval s.t : Int) % opP s ∧
        t = { s with s := t.s, i := 1#32, ctrl := .tsIscan })) ∧
    (s.ctrl = .tsIscan → (uval s.s : Int) = (uval s.t : Int) ^ 2 ^ s.i.toNat % opP s ∧
      (PrimeLoopInv s → Nat.Prime (opP s).toNat → opP s ≠ 2 → s.i.toNat < s.m.toNat) ∧ ∃ t, engineTurn s = .next t ∧
      (s.m.toNat ≤ s.i.toNat → CompletesFrom s t .noConvergence false 0) ∧
      (s.i.toNat < s.m.toNat →
        (((uval s.s : Int) - 1) % opP s = 0 → t = { s with ctrl := .tsBcomp }) ∧
        (((uval s.s : Int) - 1) % opP s ≠ 0 →
          (uval t.s : Int) = (uval s.s * uval s.s : Int) % opP s ∧ t.i.toNat = s.i.toNat + 1 ∧
          t = { s with s := t.s, i := t.i })))

/-- 42_tonelli_shanks.md R95, R96, R97: `b`, the four sequential updates (T takes the new C), and the smaller root. -/
def Obligations.UpdateAndCanonStates : Prop :=
  ∀ s : State, Inv s →
    (s.ctrl = .tsBcomp → s.i.toNat < s.m.toNat ∧ ∃ t, engineTurn s = .next t ∧
      (uval t.b : Int) = (uval s.c : Int) ^ 2 ^ (s.m.toNat - s.i.toNat - 1) % opP s ∧
      t = { s with b := t.b, ctrl := .tsUpdate }) ∧
    (s.ctrl = .tsUpdate → s.i.toNat < s.m.toNat ∧ ∃ t, engineTurn s = .next t ∧
      (uval t.root : Int) = (uval s.root * uval s.b : Int) % opP s ∧
      (uval t.c : Int) = (uval s.b * uval s.b : Int) % opP s ∧
      (uval t.t : Int) = (uval s.t * uval t.c : Int) % opP s ∧
      t = { s with root := t.root, c := t.c, t := t.t, m := s.i, ctrl := .tsLoop }) ∧
    (s.ctrl = .tsCanon → ∃ t, engineTurn s = .next t ∧ (uval s.root : Int) < opP s ∧
      (1 ≤ uval s.root → uval t.result ≤ (opP s / 2).toNat) ∧
      CompletesFrom s t .none false (min (uval s.root : Int) (opP s - uval s.root)))

/-- 42_tonelli_shanks.md R110: each error code of TSQRT is raised in one state, on one condition, and only there. -/
def Obligations.TsqrtErrorsByState : Prop :=
  ∀ s t : State, Inv s → LoopInv s → s.busy = true → s.lastop = 3#4 → engineTurn s = .next t →
    (t.err = .value ↔ s.ctrl = .tsValidate ∧ opP s < 0) ∧
    (t.err = .modulusZero ↔ s.ctrl = .tsLegendre ∧ opN s ≠ 0 ∧ opP s = 0) ∧
    (t.err = .witnessNotFound ↔ s.ctrl = .tsWscan ∧ opP s ≤ uval s.z) ∧
    (t.err = .witnessNotFound → ∀ y : Nat, 2 ≤ y → (y : Int) < opP s → legendre y (opP s) ≠ opP s - 1) ∧
    (t.err = .noConvergence ↔ s.ctrl = .tsIscan ∧ s.m.toNat ≤ s.i.toNat) ∧
    (t.err = .noConvergence →
      ∀ i : Nat, 1 ≤ i → i + 1 ≤ s.m.toNat → ((uval s.t : Int) ^ 2 ^ i - 1) % opP s ≠ 0) ∧
    (t.noroot = true → t.err = .none)

/-! ## Frames and who writes what -/

/-- What a command word leaves alone: an accept writes no operand register and not RESULT, and a word dropped by a busy
engine changes OVERRUN alone. MODPOW, LEGENDRE and TSQRT alike; none stores anywhere else, for there is no memory
(10_state.md R34, R35; 20_memory.md R41). -/
def Obligations.CommandWordFrame : Prop :=
  ∀ (i : Instr) (s t : State), exec i s = .next t →
    (s.busy = true → t = { s with overrun := t.overrun }) ∧
    (s.busy = false →
      t.k = s.k ∧ t.opa = s.opa ∧ t.opb = s.opb ∧ t.ope = s.ope ∧ t.result = s.result ∧ t.inputs = s.inputs ∧
      t.response = s.response ∧ t.stalled = s.stalled)

/-- What each engine step may write, state by state; everything not named keeps its value. OPA, OPB, OPE, LN, LP, LE,
LASTOP, OVERRUN and PARAM stand in no line (42_tonelli_shanks.md R109, 10_state.md R24; 40_modpow.md R68, 41_legendre.md
R78). -/
def Obligations.EngineStepFrame : Prop :=
  ∀ s t : State, engineStep s = .next t →
    match s.ctrl with
    | .idle => False
    | .mpExec =>
      t = { s with result := t.result, err := t.err, busy := t.busy, done := t.done, ctrl := t.ctrl }
    | .lgExec =>
      t = { s with l := t.l, result := t.result, err := t.err, busy := t.busy, done := t.done, ctrl := t.ctrl }
    | .tsValidate =>
      t = { s with result := t.result, err := t.err, busy := t.busy, done := t.done, ctrl := t.ctrl }
    | .tsZero => t = { s with result := t.result, busy := t.busy, done := t.done, ctrl := t.ctrl }
    | .tsLegendre =>
      t = { s with
        l := t.l, odd := t.odd, exponent := t.exponent, result := t.result, err := t.err, noroot := t.noroot
        busy := t.busy, done := t.done, ctrl := t.ctrl }
    | .tsDecomp => t = { s with odd := t.odd, exponent := t.exponent, z := t.z, ctrl := t.ctrl }
    | .tsFast => t = { s with root := t.root, ctrl := t.ctrl }
    | .tsWscan =>
      t = { s with z := t.z, result := t.result, err := t.err, busy := t.busy, done := t.done, ctrl := t.ctrl }
    | .tsInit => t = { s with c := t.c, root := t.root, t := t.t, m := t.m, ctrl := t.ctrl }
    | .tsLoop => t = { s with s := t.s, i := t.i, ctrl := t.ctrl }
    | .tsIscan =>
      t = { s with
        s := t.s, i := t.i, result := t.result, err := t.err, busy := t.busy, done := t.done, ctrl := t.ctrl }
    | .tsBcomp => t = { s with b := t.b, ctrl := t.ctrl }
    | .tsUpdate => t = { s with root := t.root, c := t.c, t := t.t, m := t.m, ctrl := t.ctrl }
    | .tsCanon => t = { s with result := t.result, busy := t.busy, done := t.done, ctrl := t.ctrl }

/-- 10_state.md R39: only a host write of its own word and reset change OPA, OPB or OPE, whatever the step does. -/
def Obligations.OperandsChangeOnlyByHostWriteOrReset : Prop :=
  ∀ (s t : State) (r : WideReg), r ∈ [WideReg.opa, .opb, .ope] → step s = .next t → wideReg t r ≠ wideReg s r →
    (∃ rest, s.inputs = .reset :: rest) ∨
    ∃ j v rest, j < s.k ∧ s.inputs = .write (BitVec.ofNat 12 ((wideBase r).toNat + 4 * j)) 4 v :: rest ∧
      wideReg t r = setWord (wideReg s r) j v

/-- RESULT is written by completions and reset alone: by an engine's turn that ends the running command, by an illegal word's
accept, which writes 0; and the latches by a legal accept and reset alone, an accept copying OPA, OPB and OPE (10_state.md
R17, R28, R34). -/
def Obligations.ResultAndLatchWriters : Prop :=
  ∀ s t : State, step s = .next t →
    (t.result ≠ s.result →
      (s.busy = true ∧ (s.inputs = [] ∨ ∃ rest, s.inputs = .engine :: rest) ∧
        t.busy = false ∧ t.done = true ∧ t.ctrl = .idle) ∨
      (s.busy = false ∧ (∃ w rest e, s.inputs = .write offCmd 4 w :: rest ∧ decode w = .error e) ∧
        t.err = .illegalCmd ∧ t.done = true ∧ t.result = enc s.k 0) ∨
      ∃ rest, s.inputs = .reset :: rest) ∧
    (t.ln ≠ s.ln ∨ t.lp ≠ s.lp ∨ t.le ≠ s.le →
      (s.busy = false ∧ (∃ i rest, s.inputs = .write offCmd 4 (encode i) :: rest) ∧
        t.busy = true ∧ t.ln = s.opa ∧ t.lp = s.opb ∧ t.le = s.ope) ∨
      ∃ rest, s.inputs = .reset :: rest)

/-- What sets and clears NOROOT and OVERRUN, and what writes LASTOP (10_state.md R20, R23, R24, R26). -/
def Obligations.FlagWriters : Prop :=
  ∀ s t : State, step s = .next t →
    (s.noroot = false → t.noroot = true → s.busy = true ∧ s.ctrl = .tsLegendre ∧ t.done = true ∧ t.busy = false) ∧
    (s.noroot = true → t.noroot = false →
      (s.busy = false ∧ ∃ w rest, s.inputs = .write offCmd 4 w :: rest) ∨ ∃ rest, s.inputs = .reset :: rest) ∧
    (s.overrun = false → t.overrun = true → s.busy = true ∧ ∃ w rest, s.inputs = .write offCmd 4 w :: rest) ∧
    (s.overrun = true → t.overrun = false →
      (s.busy = false ∧ ∃ w rest, s.inputs = .write offCmd 4 w :: rest) ∨ ∃ rest, s.inputs = .reset :: rest) ∧
    (t.lastop ≠ s.lastop →
      (s.busy = false ∧ ∃ w rest, s.inputs = .write offCmd 4 w :: rest ∧ t.lastop = BitVec.ofNat 4 (w.toNat % 16)) ∨
      ∃ rest, s.inputs = .reset :: rest)

/-- 10_state.md R21: BUSY rises at the accept of a legal command word and at nothing else, and falls at a completion or
reset. -/
def Obligations.BusyRisesAtAcceptAndFallsAtCompletion : Prop :=
  ∀ s t : State, step s = .next t →
    (s.busy = false → t.busy = true →
      ∃ (w : Word) (i : Instr) (rest : List Input), s.inputs = .write offCmd 4 w :: rest ∧ w = encode i) ∧
    (s.busy = true → t.busy = false →
      (t.done = true ∧ t.ctrl = .idle ∧ (s.inputs = [] ∨ ∃ rest, s.inputs = .engine :: rest)) ∨
      ∃ rest, s.inputs = .reset :: rest) ∧
    (s.busy = false → engineTurn s = .next s)

/-! ## The register window -/

/-- 20_memory.md R45: what every aligned offset of the window names; a reserved word reads 0 and ignores writes, and neither
is an error. -/
def Obligations.OffsetDecoding : Prop :=
  ∀ (k : Nat) (off : Offset), k ≤ Config.maxK → off.toNat % 4 = 0 →
    (target k off = .param ↔ off = 0x000#12) ∧ (target k off = .cmd ↔ off = 0x004#12) ∧
    (target k off = .status ↔ off = 0x008#12) ∧ (target k off = .state ↔ off = 0x00C#12) ∧
    (target k off = .m ↔ off = 0x010#12) ∧ (target k off = .i ↔ off = 0x014#12) ∧
    (target k off = .exponent ↔ off = 0x018#12) ∧
    (∀ r j, target k off = .wide r j ↔ j < k ∧ off.toNat = (wideBase r).toNat + 4 * j) ∧
    (target k off = .reserved ↔
      0x01C ≤ off.toNat ∧ off.toNat ≤ 0x0FF ∨ 0x100 ≤ off.toNat ∧ k ≤ off.toNat % 0x100 / 4) ∧
    ∀ (s : State) (v : Word), s.k = k → target k off = .reserved →
      hostRead off 4 s = .next { s with response := .data 0#32 } ∧
      hostWrite off 4 v s = .next { s with response := .written }

/-- 20_memory.md R48: a read answers the addressed word and changes nothing else; CMD and reserved words answer 0. -/
def Obligations.ReadsHaveNoSideEffect : Prop :=
  ∀ (s : State) (off : Offset) (rest : List Input), s.inputs = .read off 4 :: rest → off.toNat % 4 = 0 →
    ∃ v : Word, step s = .next { s with inputs := rest, response := .data v } ∧
      (off = 0x000#12 → v = paramWord s) ∧ (off = 0x004#12 → v = 0#32) ∧ (off = 0x008#12 → v = statusWord s) ∧
      (off = 0x00C#12 → v = stateWord s) ∧ (off = 0x010#12 → v = s.m) ∧ (off = 0x014#12 → v = s.i) ∧
      (off = 0x018#12 → v = s.exponent) ∧
      (0x01C ≤ off.toNat → off.toNat ≤ 0x0FF → v = 0#32) ∧
      (∀ r j, j < 64 → off.toNat = (wideBase r).toNat + 4 * j →
        v = if j < s.k then getWord (wideReg s r) j else 0#32)

/-- A write other than to CMD changes at most one window word as the host reads it: that word of OPA, OPB or OPE takes the
value; read-only and reserved words ignore it; every other word of the window reads as before (20_memory.md R47). -/
def Obligations.WritesChangeOnlyTheirOperandWord : Prop :=
  ∀ (s : State) (off : Offset) (v : Word) (rest : List Input), Inv s → s.inputs = .write off 4 v :: rest →
    off.toNat % 4 = 0 → off ≠ 0x004#12 →
    ∃ t, step s = .next t ∧ t.inputs = rest ∧ t.response = .written ∧
      (∀ g, g ≠ target s.k off → readTarget t g = readTarget s g) ∧
      readTarget t (target s.k off) =
        match target s.k off with
        | .wide .opa _ | .wide .opb _ | .wide .ope _ => v
        | g => readTarget s g

/-- 20_memory.md R46: every access but an aligned 32-bit one is refused, and only such an access is. -/
def Obligations.OnlyAlignedWordAccessesAreAnswered : Prop :=
  ∀ (s : State) (off : Offset) (size : Nat) (v : Word) (rest : List Input),
    (s.inputs = .read off size :: rest ∨ s.inputs = .write off size v :: rest) →
    (¬ (size = 4 ∧ off.toNat % 4 = 0) → step s = .refused (.busError off size)) ∧
    (size = 4 ∧ off.toNat % 4 = 0 → ∃ t, step s = .next t)

/-- 10_state.md R20, R27: the fields of STATUS, each at its bits, the reserved bits 0; and STATE and PARAM likewise (R18,
R36); and the number that each controller state (R37) and each error (60_exceptions.md R114) reads as. -/
def Obligations.StatusWordLayout : Prop :=
  ∀ s : State,
    (statusWord s).getLsbD 0 = s.busy ∧ (statusWord s).getLsbD 1 = s.done ∧ (statusWord s).getLsbD 2 = s.noroot ∧
    (statusWord s).getLsbD 3 = s.overrun ∧ (statusWord s).extractLsb' 4 4 = 0#4 ∧
    (statusWord s).extractLsb' 8 4 = s.err.code ∧ (statusWord s).extractLsb' 12 4 = 0#4 ∧
    (statusWord s).extractLsb' 16 4 = s.lastop ∧ (statusWord s).extractLsb' 20 12 = 0#12 ∧
    (stateWord s).extractLsb' 0 5 = s.ctrl.code ∧ (stateWord s).extractLsb' 5 27 = 0#27 ∧
    (paramWord s).extractLsb' 0 8 = BitVec.ofNat 8 s.k ∧ (paramWord s).extractLsb' 8 24 = 0#24 ∧
    (∀ cn ∈ [(CtrlState.idle, 0), (.mpExec, 1), (.lgExec, 2), (.tsValidate, 3), (.tsZero, 4), (.tsLegendre, 5),
        (.tsDecomp, 6), (.tsFast, 7), (.tsWscan, 8), (.tsInit, 9), (.tsLoop, 10), (.tsIscan, 11), (.tsBcomp, 12),
        (.tsUpdate, 13), (.tsCanon, 14)], s.ctrl = cn.1 → (stateWord s).toNat = cn.2) ∧
    ∀ en ∈ [(ErrCode.none, 0), (.typeN, 1), (.typeP, 2), (.value, 3), (.modulusZero, 4), (.illegalCmd, 5),
        (.witnessNotFound, 6), (.noConvergence, 7), (.width, 8)], s.err = en.1 → (errOfStatus (statusWord s)).toNat = en.2

/-- The K stores of an encoded operand, whatever the register held, leave exactly its encoding, and a value that the
register can hold is read back (20_memory.md R42; 30_encoding.md R63; 00_scope.md R9). -/
def Obligations.OperandStoresReadBack : Prop :=
  ∀ (k : Nat) (v : Wide) (x : Int), 1 ≤ k → v.length = k →
    (List.range k).foldl (fun r j => setWord r j (getWord (enc k x) j)) v = enc k x ∧
    (fitsSigned k x = true → sval k (enc k x) = x) ∧ (fitsUnsigned k x = true → (uval (enc k x) : Int) = x)

/-- 20_memory.md R44: bus addresses and offsets correspond on the window, and no other address reaches it. -/
def Obligations.WindowAddresses : Prop :=
  (∀ off : Offset, offsetOfBus (busAddress off) = some off) ∧
  ∀ a : Nat, offsetOfBus a = none ↔ a < Config.engineBase ∨ Config.engineBase + 4096 ≤ a

/-! ## Reset -/

/-- 10_state.md R38, 70_reset_and_hazards.md R131: after reset every word of the window reads 0 but PARAM, which is
unchanged; STATE is IDLE and no command runs; whatever was running is abandoned. -/
def Obligations.ResetClearsEveryRegister : Prop :=
  ∀ (s : State) (rest : List Input), s.inputs = .reset :: rest →
    ∃ t, step s = .next t ∧ t.inputs = rest ∧ t.k = s.k ∧ t.ctrl = .idle ∧ t.busy = false ∧ t.done = false ∧
      engineTurn t = .next t ∧ (∀ r, uval (wideReg t r) = 0) ∧ ∀ g, readTarget t g = if g = .param then paramWord s else 0#32

/-- 70_reset_and_hazards.md R135: a command issued right after reset runs on zero operands, for every K. -/
def Obligations.CommandsRightAfterReset : Prop :=
  ∀ k : Nat, 1 ≤ k → k ≤ Config.maxK →
    (∃ t u, exec .tsqrt (State.resetWith k) = .next t ∧ engineRun 2 t = .next u ∧ Completed u .none false 0) ∧
    (∃ t u, exec .legendre (State.resetWith k) = .next t ∧ engineRun 1 t = .next u ∧
      Completed u .modulusZero false 0) ∧
    (∃ t u, exec .modpow (State.resetWith k) = .next t ∧ engineRun 1 t = .next u ∧ Completed u .modulusZero false 0)

/-! ## Invariants and the whole machine -/

/-- The invariants hold right after reset, for every legal K. -/
def Obligations.InvariantsHoldAfterReset : Prop :=
  ∀ k : Nat, 1 ≤ k → k ≤ Config.maxK →
    Inv (State.resetWith k) ∧ LoopInv (State.resetWith k) ∧ PrimeLoopInv (State.resetWith k)

/-- Every step of the machine, whatever event it is, keeps the machine invariant. (Its range of I in the inner scan,
`1 ≤ I ≤ max(M, 1)`, is the model's reading of the state rules, where 10_state.md R32 says `I ≤ M`: log 10.) -/
def Obligations.StepKeepsTheMachineInvariant : Prop :=
  ∀ s t : State, Inv s → step s = .next t → Inv t

/-- Every step keeps the loop invariant, `root² ≡ n·t (mod p)` and what the inner scan has found (42_tonelli_shanks.md R92,
R94). -/
def Obligations.StepKeepsTheLoopInvariant : Prop :=
  ∀ s t : State, Inv s → LoopInv s → step s = .next t → LoopInv t

/-- For an odd prime modulus every step keeps `t^(2^(m−1)) ≡ 1` and `c^(2^(m−1)) ≡ −1 (mod p)` through the outer loop
(42_tonelli_shanks.md R92; that R92's first bullet is stated for these moduli alone is the model's reading, log 16). -/
def Obligations.StepKeepsThePrimeLoopInvariant : Prop :=
  ∀ s t : State, Inv s → LoopInv s → PrimeLoopInv s → step s = .next t → PrimeLoopInv t

/-- 70_reset_and_hazards.md R146: the engine never gets stuck: while BUSY = 1 exactly one engine step is enabled, it changes
the state, and no step of the machine faults; a step is refused only for an access that is not an aligned 32-bit one. -/
def Obligations.TheEngineNeverGetsStuck : Prop :=
  ∀ s : State, Inv s →
    (s.busy = true → ∃ t, engineTurn s = .next t ∧ t ≠ s) ∧
    (∀ f, step s ≠ .fault f) ∧
    ∀ r, step s = .refused r → ∃ x rest, s.inputs = x :: rest ∧ x.wellFormed = false

/-- 42_tonelli_shanks.md R83: an engine step is a function of the engine's own state: it neither reads nor writes what the host
may write, and while BUSY = 0 the engine's turn changes nothing. -/
def Obligations.EngineStepIgnoresTheHost : Prop :=
  ∀ s s' : State, coreView s = coreView s' →
    (∀ t, engineTurn s = .next t →
      t.opa = s.opa ∧ t.opb = s.opb ∧ t.ope = s.ope ∧ t.overrun = s.overrun ∧ t.inputs = s.inputs ∧
      t.response = s.response ∧ t.stalled = s.stalled ∧ ∃ t', engineTurn s' = .next t' ∧ coreView t = coreView t') ∧
    (s.busy = false → engineTurn s = .next s)

/-- 42_tonelli_shanks.md R101: whatever aligned host accesses fall between the engine's turns, the engine goes through the same
latches, working registers, STATUS and RESULT as with no host at all: CMD writes too while the command is running, and
every other access through its completion and after. -/
def Obligations.HostAccessesCannotDisturbACommand : Prop :=
  ∀ (s : State) (xs : List Input), Inv s → s.inputs = xs →
    ((∀ x ∈ xs, quiet x = true) ∨
      ((∀ x ∈ xs, x.wellFormed = true ∧ x ≠ .reset) ∧
        ∃ u, engineRun (engineTurns xs) s = .next u ∧ u.busy = true)) →
    ∃ t u, Host.Core.run Sys2Proof.core xs.length s = .next t ∧ t.inputs = [] ∧
      engineRun (engineTurns xs) s = .next u ∧ coreView t = coreView u

/-- Where no event is listed the engine has its turn (the weak fairness of 70_reset_and_hazards.md R143), but on a stalled
schedule nothing happens (the hang of R143); a listed turn of the engine is the same turn. That the schedule is data in the
state is the model's choice (log 2). -/
def Obligations.TheEngineMovesWhenNothingElseDoes : Prop :=
  ∀ s : State, (s.inputs = [] → s.stalled = false → step s = engineTurn s) ∧
    (s.inputs = [] → s.stalled = true → step s = .next s) ∧
    ∀ rest, s.inputs = .engine :: rest → step s = engineTurn { s with inputs := rest }

/-- 70_reset_and_hazards.md R143: under weak fairness every command completes, whatever well-formed program the host runs
meanwhile; the latches are still the command's own. So does the machine's own run once the listed events are over, unless
its schedule is stalled. (The premise that no reset comes, which R143 does not name, and the schedule as data are the
model's: log 2. What a well-formed program is: log 7.) -/
def Obligations.FairRunsCompleteEveryCommand : Prop :=
  (∀ (y : System) (sch : Nat → Turn), Inv y.dev → y.dev.busy = true → programWellFormed y.host.prog = true →
    (∀ n, sch n ≠ .reset) → WeaklyFair sch y →
    ∃ n z, systemAt sch n y = .next z ∧ z.dev.busy = false ∧ z.dev.done = true ∧ z.dev.ctrl = .idle ∧
      z.dev.ln = y.dev.ln ∧ z.dev.lp = y.dev.lp ∧ z.dev.le = y.dev.le) ∧
  ∀ s : State, Inv s → s.busy = true → s.inputs = [] → s.stalled = false →
    ∃ n t, Host.Core.run Sys2Proof.core n s = .next t ∧ t.busy = false ∧ t.done = true ∧ t.ctrl = .idle

/-- 70_reset_and_hazards.md R143: under weak fairness, and where the host goes on, a host `wait` ends, with BUSY = 0, and with
DONE = 1 where a command was running and no reset came; where no command runs it ends at once (30_encoding.md R63). (That
the host goes on, `HostMoves`, is the model's premise, log 2: R143 assumes fairness of the engine alone.) -/
def Obligations.FairWaitsEnd : Prop :=
  ∀ (y : System) (x l : Nat), Inv y.dev → AtWait y x l →
    (∀ sch : Nat → Turn, WeaklyFair sch y → HostMoves sch →
      ∃ n z, systemAt sch n y = .next z ∧ z.host.pc = y.host.pc + 3 ∧ z.host.halted = false ∧
        z.host.prog = y.host.prog ∧ z.dev.busy = false ∧
        (y.dev.busy = true → (∀ n, sch n ≠ .reset) → z.dev.done = true)) ∧
    (y.dev.busy = false →
      ∃ z, systemRun [.host, .host, .host] y = .next z ∧ z.host.pc = y.host.pc + 3 ∧
        registersOf z.dev = registersOf y.dev)

/-- 70_reset_and_hazards.md R143: without fairness a run in which the engine never steps is a hang, and it is a run of the
model: on a stalled schedule no step of the machine changes anything, and a host that alone has turns stays in its `wait`
for ever. (The stalled schedule as a flag in the state is the model's choice, log 2.) -/
def Obligations.UnfairRunsHang : Prop :=
  (∀ s : State, s.inputs = [] → s.stalled = true → ∀ n, Host.Core.run Sys2Proof.core n s = .next s) ∧
  ∀ (y : System) (x l : Nat), AtWait y x l → y.dev.busy = true →
    ¬ WeaklyFair (fun _ => .host) y ∧
    ∀ n, ∃ z, systemAt (fun _ => .host) n y = .next z ∧ registersOf z.dev = registersOf y.dev ∧
      y.host.pc ≤ z.host.pc ∧ z.host.pc < y.host.pc + 3

/-! ## The host's side -/

/-- 60_exceptions.md R126: the command the driver issues has the outcome of the call on the unbounded operands; its operands fit
their registers; a nonzero `n` is never issued as 0; WIDTH is reported only for a modulus or an exponent that does not fit.
(The operand issued beside a negative or zero modulus where the given one does not fit is the model's choice, log 8.) -/
def Obligations.DriverKeepsTheOutcome : Prop :=
  ∀ k : Nat, 1 ≤ k →
    (∀ n p : Int,
      (∃ a b, driveTsqrtInt k n p = .issue .tsqrt a b 0 ∧ fitsSigned k a = true ∧ fitsSigned k b = true ∧
        (n ≠ 0 → a ≠ 0) ∧ tsqrt a b = tsqrt n p) ∨
      (driveTsqrtInt k n p = .report .width ∧ 2 ^ (bitWidth k - 1) - 1 < p)) ∧
    (∀ a p : Int,
      (∃ a' p', driveLegendreInt k a p = .issue .legendre a' p' 0 ∧ fitsSigned k a' = true ∧ fitsSigned k p' = true ∧
        legendreCmd a' p' = legendreCmd a p) ∨
      (driveLegendreInt k a p = .report .width ∧ 2 ^ (bitWidth k - 1) - 1 < p)) ∧
    ∀ (b : Int) (e : Nat) (m : Int),
      (∃ b' m' e', driveModpowInt k b e m = .issue .modpow b' m' e' ∧ fitsSigned k b' = true ∧
        fitsSigned k m' = true ∧ fitsUnsigned k e' = true ∧ modpowCmd b' e' m' = modpowCmd b e m) ∨
      (driveModpowInt k b e m = .report .width ∧ (2 ^ (bitWidth k - 1) - 1 < m ∨ 2 ^ bitWidth k ≤ e))

/-- The statements the driver issues are the calls' expansions of 30_encoding.md R63, up to their `wait` (60_exceptions.md R126
does not say which registers the driver writes: the model's choice, log 8). -/
def Obligations.DriverIssuesTheExpansions : Prop :=
  ∀ (k : Nat) (a b : Int) (e h l : Nat), fitsSigned k a = true → fitsSigned k b = true →
    sqrtStmts k a b h l = some (driverStmts k (.issue .tsqrt a b e) ++ waitStmts h l) ∧
    legendreStmts k a b h l = some (driverStmts k (.issue .legendre a b e) ++ waitStmts h l) ∧
    (fitsUnsigned k e = true →
      modpowStmts k a e b h l = some (driverStmts k (.issue .modpow a b e) ++ waitStmts h l))

/-- The driver's TypeKind check: `n` before `p`, naming the type it met, and before any register is written (60_exceptions.md
R125). -/
def Obligations.DriverChecksTypesFirst : Prop :=
  ∀ (k : Nat) (x y : String) (v : HostValue) (z : Int) (c : ErrCode),
    driveTsqrt k (.other x) v = .reportType .typeN x ∧ driveTsqrt k (.int z) (.other y) = .reportType .typeP y ∧
    driveLegendre k (.other x) v = .reportType .typeN x ∧ driveLegendre k (.int z) (.other y) = .reportType .typeP y ∧
    driverStmts k (.report c) = [] ∧ driverStmts k (.reportType c x) = []

/-- The command mnemonics of the host assembly are CMD writes, `lw` takes the addressed word into its variable, and `bnz` and
`halt` touch the host alone (30_encoding.md R62). -/
def Obligations.HostStatements : Prop :=
  ∀ y : System,
    hostStmt (.command .modpow) y = hostStmt (.sw 0x004#12 1) y ∧
    hostStmt (.command .legendre) y = hostStmt (.sw 0x004#12 2) y ∧
    hostStmt (.command .tsqrt) y = hostStmt (.sw 0x004#12 3) y ∧
    (∀ x off z, hostStmt (.lw x off) y = .next z →
      registersOf z.dev = registersOf y.dev ∧ getVar z.host.vars x = (readTarget y.dev (target y.dev.k off)).toNat ∧
      z.host.pc = y.host.pc + 1) ∧
    (∀ x mask l z, hostStmt (.bnz x mask l) y = .next z → z.dev = y.dev ∧ z.host.vars = y.host.vars) ∧
    ∃ z, hostStmt .halt y = .next z ∧ z.dev = y.dev ∧ z.host.halted = true
end

