-- ==== Sys2Proof/Laws/Arith.lean ====
section
/-! SUPPORT. Laws of the number readings of registers, of one word of a wide register, and of the modpow core. -/

namespace Sys2Proof.Laws

open Sys2Proof.Machine

@[simp] theorem bitWidth_succ (k : Nat) : bitWidth (k + 1) = 32 + bitWidth k := by unfold bitWidth; omega

@[simp] theorem length_wordsOf (k x : Nat) : (wordsOf k x).length = k := by
  induction k generalizing x with
  | zero => rfl
  | succ k ih => simp [wordsOf, ih]

@[simp] theorem length_enc (k : Nat) (x : Int) : (enc k x).length = k := length_wordsOf ..

@[simp] theorem length_zeroWide (k : Nat) : (zeroWide k).length = k := List.length_replicate

@[simp] theorem length_setWord (v : Wide) (j : Nat) (w : Word) : (setWord v j w).length = v.length := List.length_set

@[simp] theorem uval_zeroWide (k : Nat) : uval (zeroWide k) = 0 := by
  induction k with
  | zero => rfl
  | succ k ih => simpa [zeroWide, List.replicate_succ, uval] using ih

/-- A wide register of `k` words reads below `2^W`. -/
theorem uval_lt (v : Wide) : uval v < 2 ^ bitWidth v.length := by
  induction v with
  | nil => simp [uval]
  | cons w ws ih =>
    have hw := w.isLt
    simp only [uval, List.length_cons, bitWidth_succ, pow_add]
    nlinarith

/-- Writing the words of a number keeps it modulo `2^W`. -/
theorem uval_wordsOf (k x : Nat) : uval (wordsOf k x) = x % 2 ^ bitWidth k := by
  induction k generalizing x with
  | zero => simp [wordsOf, uval, bitWidth, Nat.mod_one]
  | succ k ih => simp [wordsOf, uval, ih, bitWidth_succ, pow_add, Nat.mod_mul]

/-- `uval_W (enc_W x) = x mod 2^W` (00_scope.md R9). -/
theorem uval_enc (k : Nat) (x : Int) : (uval (enc k x) : Int) = x % 2 ^ bitWidth k := by
  have hp : (0 : Int) < 2 ^ bitWidth k := by positivity
  have h0 : 0 ≤ x % (2 ^ bitWidth k : Int) := Int.emod_nonneg _ hp.ne'
  have h1 : x % (2 ^ bitWidth k : Int) < 2 ^ bitWidth k := Int.emod_lt_of_pos _ hp
  rw [enc, uval_wordsOf]
  push_cast
  rw [Int.toNat_of_nonneg h0, Int.emod_emod_of_dvd _ dvd_rfl]

/-- A value that fits is read back (10_state.md R32). -/
theorem uval_enc_of_lt {k : Nat} {x : Int} (h0 : 0 ≤ x) (h1 : x < 2 ^ bitWidth k) : (uval (enc k x) : Int) = x := by
  rw [uval_enc, Int.emod_eq_of_lt h0 h1]

@[simp] theorem uval_enc_zero (k : Nat) : uval (enc k 0) = 0 := by
  have := uval_enc k 0
  simpa using this

/-- Two registers of one length with one value are equal. -/
theorem wide_ext {v w : Wide} (hl : v.length = w.length) (h : uval v = uval w) : v = w := by
  induction v generalizing w with
  | nil => cases w with
    | nil => rfl
    | cons => simp at hl
  | cons a as ih => cases w with
    | nil => simp at hl
    | cons b bs =>
      have ha := a.isLt
      have hb := b.isLt
      simp only [uval] at h
      have e1 : a.toNat = b.toNat := by omega
      have e2 : uval as = uval bs := by omega
      rw [BitVec.eq_of_toNat_eq e1, ih (by simpa using hl) e2]

theorem sval_lower (v : Wide) (hk : 1 ≤ v.length) : -(2 ^ (bitWidth v.length - 1) : Int) ≤ sval v.length v := by
  have hu := uval_lt v
  obtain ⟨d, hd⟩ : ∃ d, bitWidth v.length = d + 1 := ⟨bitWidth v.length - 1, by unfold bitWidth; omega⟩
  unfold sval
  rw [hd] at hu ⊢
  simp only [Nat.add_sub_cancel]
  have hp : (2 : Int) ^ (d + 1) = 2 * 2 ^ d := by ring
  have hpos : (0 : Int) < 2 ^ d := by positivity
  split
  · omega
  · rename_i h
    have : (2 ^ d : Int) ≤ uval v := by exact_mod_cast Nat.not_lt.mp h
    rw [hp]; omega

/-- A modulus is at most `2^(W−1) − 1` (10_state.md R32). -/
theorem sval_upper (v : Wide) (hk : 1 ≤ v.length) : sval v.length v < (2 ^ (bitWidth v.length - 1) : Int) := by
  have hu := uval_lt v
  obtain ⟨d, hd⟩ : ∃ d, bitWidth v.length = d + 1 := ⟨bitWidth v.length - 1, by unfold bitWidth; omega⟩
  unfold sval
  rw [hd] at hu ⊢
  simp only [Nat.add_sub_cancel]
  have hp : (2 : Int) ^ (d + 1) = 2 * 2 ^ d := by ring
  have hpos : (0 : Int) < 2 ^ d := by positivity
  split
  · rename_i h; exact_mod_cast h
  · have : (uval v : Int) < 2 ^ (d + 1) := by exact_mod_cast hu
    rw [hp] at this ⊢; omega

theorem getWord_setWord_same {v : Wide} {j : Nat} (w : Word) (h : j < v.length) : getWord (setWord v j w) j = w := by
  simp [getWord, setWord, h]

theorem getWord_setWord_other (v : Wide) {i j : Nat} (w : Word) (h : i ≠ j) :
    getWord (setWord v j w) i = getWord v i := by
  simp [getWord, setWord, h.symm]

theorem modmul_nonneg {m : Int} (x y : Int) (hm : 0 < m) : 0 ≤ modmul x y m := Int.emod_nonneg _ hm.ne'

theorem modmul_lt {m : Int} (x y : Int) (hm : 0 < m) : modmul x y m < m := Int.emod_lt_of_pos _ hm

/-- Square-and-multiply computes the power, given fuel for every bit of the exponent. -/
theorem powBits_eq (fuel : Nat) (b : Int) (e : Nat) (m : Int) (he : e < 2 ^ fuel) :
    powBits fuel b e m = b ^ e % m := by
  induction fuel generalizing b e with
  | zero =>
    have : e = 0 := by simpa using he
    simp [powBits, this]
  | succ f ih =>
    have hh : e / 2 < 2 ^ f := by rw [pow_succ] at he; omega
    have hsq : (b * b % m) ^ (e / 2) % m = b ^ (2 * (e / 2)) % m := by
      rw [pow_mul, sq]
      exact (Int.ModEq.pow _ (Int.mod_modEq _ _))
    unfold powBits
    split
    · simp_all
    · split
      · rename_i h1
        have e2 : e = 2 * (e / 2) + 1 := by omega
        rw [ih _ _ hh, modmul, modmul, hsq]
        conv_rhs => rw [e2, pow_succ', Int.mul_emod]
        rw [Int.mul_emod, Int.emod_emod_of_dvd _ dvd_rfl]
      · have e2 : e = 2 * (e / 2) := by omega
        rw [ih _ _ hh, modmul, hsq, ← e2]

/-- The modpow core's value: `modpow(b, e, m) = b^e mod m` (40_modpow.md R67). -/
theorem modpow_eq_pow_emod (b : Int) (e : Nat) (m : Int) : modpow b e m = b ^ e % m := by
  rw [modpow, powBits_eq _ _ _ _ (Nat.lt_log2_self)]
  exact Int.ModEq.pow _ (Int.mod_modEq _ _)

theorem modpow_nonneg {m : Int} (b : Int) (e : Nat) (hm : 0 < m) : 0 ≤ modpow b e m := by
  rw [modpow_eq_pow_emod]; exact Int.emod_nonneg _ hm.ne'

theorem modpow_lt {m : Int} (b : Int) (e : Nat) (hm : 0 < m) : modpow b e m < m := by
  rw [modpow_eq_pow_emod]; exact Int.emod_lt_of_pos _ hm

theorem legendre_eq (a p : Int) : legendre a p = a ^ ((p - 1) / 2).toNat % p := modpow_eq_pow_emod ..

end Sys2Proof.Laws
end

