-- ==== Sys2Proof/Laws/State.lean ====
section
/-! SUPPORT. One lemma per field per update of the state, each true by definition. -/

namespace Sys2Proof.Laws

open Sys2Proof.Machine

@[simp] theorem finishOk_k (v : Int) (x : State) : (finishOk v x).k = x.k := rfl
@[simp] theorem finishOk_busy (v : Int) (x : State) : (finishOk v x).busy = false := rfl
@[simp] theorem finishOk_done (v : Int) (x : State) : (finishOk v x).done = true := rfl
@[simp] theorem finishOk_noroot (v : Int) (x : State) : (finishOk v x).noroot = x.noroot := rfl
@[simp] theorem finishOk_overrun (v : Int) (x : State) : (finishOk v x).overrun = x.overrun := rfl
@[simp] theorem finishOk_err (v : Int) (x : State) : (finishOk v x).err = x.err := rfl
@[simp] theorem finishOk_lastop (v : Int) (x : State) : (finishOk v x).lastop = x.lastop := rfl
@[simp] theorem finishOk_ctrl (v : Int) (x : State) : (finishOk v x).ctrl = .idle := rfl
@[simp] theorem finishOk_m (v : Int) (x : State) : (finishOk v x).m = x.m := rfl
@[simp] theorem finishOk_i (v : Int) (x : State) : (finishOk v x).i = x.i := rfl
@[simp] theorem finishOk_exponent (v : Int) (x : State) : (finishOk v x).exponent = x.exponent := rfl
@[simp] theorem finishOk_opa (v : Int) (x : State) : (finishOk v x).opa = x.opa := rfl
@[simp] theorem finishOk_opb (v : Int) (x : State) : (finishOk v x).opb = x.opb := rfl
@[simp] theorem finishOk_ope (v : Int) (x : State) : (finishOk v x).ope = x.ope := rfl
@[simp] theorem finishOk_result (v : Int) (x : State) : (finishOk v x).result = enc x.k v := rfl
@[simp] theorem finishOk_ln (v : Int) (x : State) : (finishOk v x).ln = x.ln := rfl
@[simp] theorem finishOk_lp (v : Int) (x : State) : (finishOk v x).lp = x.lp := rfl
@[simp] theorem finishOk_le (v : Int) (x : State) : (finishOk v x).le = x.le := rfl
@[simp] theorem finishOk_l (v : Int) (x : State) : (finishOk v x).l = x.l := rfl
@[simp] theorem finishOk_odd (v : Int) (x : State) : (finishOk v x).odd = x.odd := rfl
@[simp] theorem finishOk_z (v : Int) (x : State) : (finishOk v x).z = x.z := rfl
@[simp] theorem finishOk_c (v : Int) (x : State) : (finishOk v x).c = x.c := rfl
@[simp] theorem finishOk_t (v : Int) (x : State) : (finishOk v x).t = x.t := rfl
@[simp] theorem finishOk_root (v : Int) (x : State) : (finishOk v x).root = x.root := rfl
@[simp] theorem finishOk_s (v : Int) (x : State) : (finishOk v x).s = x.s := rfl
@[simp] theorem finishOk_b (v : Int) (x : State) : (finishOk v x).b = x.b := rfl
@[simp] theorem finishOk_inputs (v : Int) (x : State) : (finishOk v x).inputs = x.inputs := rfl
@[simp] theorem finishOk_response (v : Int) (x : State) : (finishOk v x).response = x.response := rfl
@[simp] theorem finishOk_stalled (v : Int) (x : State) : (finishOk v x).stalled = x.stalled := rfl

@[simp] theorem finishNoroot_k (x : State) : (finishNoroot x).k = x.k := rfl
@[simp] theorem finishNoroot_busy (x : State) : (finishNoroot x).busy = false := rfl
@[simp] theorem finishNoroot_done (x : State) : (finishNoroot x).done = true := rfl
@[simp] theorem finishNoroot_noroot (x : State) : (finishNoroot x).noroot = true := rfl
@[simp] theorem finishNoroot_overrun (x : State) : (finishNoroot x).overrun = x.overrun := rfl
@[simp] theorem finishNoroot_err (x : State) : (finishNoroot x).err = x.err := rfl
@[simp] theorem finishNoroot_lastop (x : State) : (finishNoroot x).lastop = x.lastop := rfl
@[simp] theorem finishNoroot_ctrl (x : State) : (finishNoroot x).ctrl = .idle := rfl
@[simp] theorem finishNoroot_m (x : State) : (finishNoroot x).m = x.m := rfl
@[simp] theorem finishNoroot_i (x : State) : (finishNoroot x).i = x.i := rfl
@[simp] theorem finishNoroot_exponent (x : State) : (finishNoroot x).exponent = x.exponent := rfl
@[simp] theorem finishNoroot_opa (x : State) : (finishNoroot x).opa = x.opa := rfl
@[simp] theorem finishNoroot_opb (x : State) : (finishNoroot x).opb = x.opb := rfl
@[simp] theorem finishNoroot_ope (x : State) : (finishNoroot x).ope = x.ope := rfl
@[simp] theorem finishNoroot_result (x : State) : (finishNoroot x).result = enc x.k 0 := rfl
@[simp] theorem finishNoroot_ln (x : State) : (finishNoroot x).ln = x.ln := rfl
@[simp] theorem finishNoroot_lp (x : State) : (finishNoroot x).lp = x.lp := rfl
@[simp] theorem finishNoroot_le (x : State) : (finishNoroot x).le = x.le := rfl
@[simp] theorem finishNoroot_l (x : State) : (finishNoroot x).l = x.l := rfl
@[simp] theorem finishNoroot_odd (x : State) : (finishNoroot x).odd = x.odd := rfl
@[simp] theorem finishNoroot_z (x : State) : (finishNoroot x).z = x.z := rfl
@[simp] theorem finishNoroot_c (x : State) : (finishNoroot x).c = x.c := rfl
@[simp] theorem finishNoroot_t (x : State) : (finishNoroot x).t = x.t := rfl
@[simp] theorem finishNoroot_root (x : State) : (finishNoroot x).root = x.root := rfl
@[simp] theorem finishNoroot_s (x : State) : (finishNoroot x).s = x.s := rfl
@[simp] theorem finishNoroot_b (x : State) : (finishNoroot x).b = x.b := rfl
@[simp] theorem finishNoroot_inputs (x : State) : (finishNoroot x).inputs = x.inputs := rfl
@[simp] theorem finishNoroot_response (x : State) : (finishNoroot x).response = x.response := rfl
@[simp] theorem finishNoroot_stalled (x : State) : (finishNoroot x).stalled = x.stalled := rfl

@[simp] theorem finishErr_k (e : ErrCode) (x : State) : (finishErr e x).k = x.k := rfl
@[simp] theorem finishErr_busy (e : ErrCode) (x : State) : (finishErr e x).busy = false := rfl
@[simp] theorem finishErr_done (e : ErrCode) (x : State) : (finishErr e x).done = true := rfl
@[simp] theorem finishErr_noroot (e : ErrCode) (x : State) : (finishErr e x).noroot = x.noroot := rfl
@[simp] theorem finishErr_overrun (e : ErrCode) (x : State) : (finishErr e x).overrun = x.overrun := rfl
@[simp] theorem finishErr_err (e : ErrCode) (x : State) : (finishErr e x).err = e := rfl
@[simp] theorem finishErr_lastop (e : ErrCode) (x : State) : (finishErr e x).lastop = x.lastop := rfl
@[simp] theorem finishErr_ctrl (e : ErrCode) (x : State) : (finishErr e x).ctrl = .idle := rfl
@[simp] theorem finishErr_m (e : ErrCode) (x : State) : (finishErr e x).m = x.m := rfl
@[simp] theorem finishErr_i (e : ErrCode) (x : State) : (finishErr e x).i = x.i := rfl
@[simp] theorem finishErr_exponent (e : ErrCode) (x : State) : (finishErr e x).exponent = x.exponent := rfl
@[simp] theorem finishErr_opa (e : ErrCode) (x : State) : (finishErr e x).opa = x.opa := rfl
@[simp] theorem finishErr_opb (e : ErrCode) (x : State) : (finishErr e x).opb = x.opb := rfl
@[simp] theorem finishErr_ope (e : ErrCode) (x : State) : (finishErr e x).ope = x.ope := rfl
@[simp] theorem finishErr_result (e : ErrCode) (x : State) : (finishErr e x).result = enc x.k 0 := rfl
@[simp] theorem finishErr_ln (e : ErrCode) (x : State) : (finishErr e x).ln = x.ln := rfl
@[simp] theorem finishErr_lp (e : ErrCode) (x : State) : (finishErr e x).lp = x.lp := rfl
@[simp] theorem finishErr_le (e : ErrCode) (x : State) : (finishErr e x).le = x.le := rfl
@[simp] theorem finishErr_l (e : ErrCode) (x : State) : (finishErr e x).l = x.l := rfl
@[simp] theorem finishErr_odd (e : ErrCode) (x : State) : (finishErr e x).odd = x.odd := rfl
@[simp] theorem finishErr_z (e : ErrCode) (x : State) : (finishErr e x).z = x.z := rfl
@[simp] theorem finishErr_c (e : ErrCode) (x : State) : (finishErr e x).c = x.c := rfl
@[simp] theorem finishErr_t (e : ErrCode) (x : State) : (finishErr e x).t = x.t := rfl
@[simp] theorem finishErr_root (e : ErrCode) (x : State) : (finishErr e x).root = x.root := rfl
@[simp] theorem finishErr_s (e : ErrCode) (x : State) : (finishErr e x).s = x.s := rfl
@[simp] theorem finishErr_b (e : ErrCode) (x : State) : (finishErr e x).b = x.b := rfl
@[simp] theorem finishErr_inputs (e : ErrCode) (x : State) : (finishErr e x).inputs = x.inputs := rfl
@[simp] theorem finishErr_response (e : ErrCode) (x : State) : (finishErr e x).response = x.response := rfl
@[simp] theorem finishErr_stalled (e : ErrCode) (x : State) : (finishErr e x).stalled = x.stalled := rfl

@[simp] theorem acceptLegal_k (op : BitVec 4) (en : CtrlState) (x : State) : (acceptLegal op en x).k = x.k := rfl
@[simp] theorem acceptLegal_busy (op : BitVec 4) (en : CtrlState) (x : State) : (acceptLegal op en x).busy = true := rfl
@[simp] theorem acceptLegal_done (op : BitVec 4) (en : CtrlState) (x : State) : (acceptLegal op en x).done = false := rfl
@[simp] theorem acceptLegal_noroot (op : BitVec 4) (en : CtrlState) (x : State) : (acceptLegal op en x).noroot = false := rfl
@[simp] theorem acceptLegal_overrun (op : BitVec 4) (en : CtrlState) (x : State) : (acceptLegal op en x).overrun = false := rfl
@[simp] theorem acceptLegal_err (op : BitVec 4) (en : CtrlState) (x : State) : (acceptLegal op en x).err = .none := rfl
@[simp] theorem acceptLegal_lastop (op : BitVec 4) (en : CtrlState) (x : State) : (acceptLegal op en x).lastop = op := rfl
@[simp] theorem acceptLegal_ctrl (op : BitVec 4) (en : CtrlState) (x : State) : (acceptLegal op en x).ctrl = en := rfl
@[simp] theorem acceptLegal_m (op : BitVec 4) (en : CtrlState) (x : State) : (acceptLegal op en x).m = 0#32 := rfl
@[simp] theorem acceptLegal_i (op : BitVec 4) (en : CtrlState) (x : State) : (acceptLegal op en x).i = 0#32 := rfl
@[simp] theorem acceptLegal_exponent (op : BitVec 4) (en : CtrlState) (x : State) : (acceptLegal op en x).exponent = 0#32 := rfl
@[simp] theorem acceptLegal_opa (op : BitVec 4) (en : CtrlState) (x : State) : (acceptLegal op en x).opa = x.opa := rfl
@[simp] theorem acceptLegal_opb (op : BitVec 4) (en : CtrlState) (x : State) : (acceptLegal op en x).opb = x.opb := rfl
@[simp] theorem acceptLegal_ope (op : BitVec 4) (en : CtrlState) (x : State) : (acceptLegal op en x).ope = x.ope := rfl
@[simp] theorem acceptLegal_result (op : BitVec 4) (en : CtrlState) (x : State) : (acceptLegal op en x).result = x.result := rfl
@[simp] theorem acceptLegal_ln (op : BitVec 4) (en : CtrlState) (x : State) : (acceptLegal op en x).ln = x.opa := rfl
@[simp] theorem acceptLegal_lp (op : BitVec 4) (en : CtrlState) (x : State) : (acceptLegal op en x).lp = x.opb := rfl
@[simp] theorem acceptLegal_le (op : BitVec 4) (en : CtrlState) (x : State) : (acceptLegal op en x).le = x.ope := rfl
@[simp] theorem acceptLegal_l (op : BitVec 4) (en : CtrlState) (x : State) : (acceptLegal op en x).l = enc x.k 0 := rfl
@[simp] theorem acceptLegal_odd (op : BitVec 4) (en : CtrlState) (x : State) : (acceptLegal op en x).odd = enc x.k 0 := rfl
@[simp] theorem acceptLegal_z (op : BitVec 4) (en : CtrlState) (x : State) : (acceptLegal op en x).z = enc x.k 0 := rfl
@[simp] theorem acceptLegal_c (op : BitVec 4) (en : CtrlState) (x : State) : (acceptLegal op en x).c = enc x.k 0 := rfl
@[simp] theorem acceptLegal_t (op : BitVec 4) (en : CtrlState) (x : State) : (acceptLegal op en x).t = enc x.k 0 := rfl
@[simp] theorem acceptLegal_root (op : BitVec 4) (en : CtrlState) (x : State) : (acceptLegal op en x).root = enc x.k 0 := rfl
@[simp] theorem acceptLegal_s (op : BitVec 4) (en : CtrlState) (x : State) : (acceptLegal op en x).s = enc x.k 0 := rfl
@[simp] theorem acceptLegal_b (op : BitVec 4) (en : CtrlState) (x : State) : (acceptLegal op en x).b = enc x.k 0 := rfl
@[simp] theorem acceptLegal_inputs (op : BitVec 4) (en : CtrlState) (x : State) : (acceptLegal op en x).inputs = x.inputs := rfl
@[simp] theorem acceptLegal_response (op : BitVec 4) (en : CtrlState) (x : State) : (acceptLegal op en x).response = x.response := rfl
@[simp] theorem acceptLegal_stalled (op : BitVec 4) (en : CtrlState) (x : State) : (acceptLegal op en x).stalled = x.stalled := rfl

@[simp] theorem acceptIllegal_k (op : BitVec 4) (x : State) : (acceptIllegal op x).k = x.k := rfl
@[simp] theorem acceptIllegal_busy (op : BitVec 4) (x : State) : (acceptIllegal op x).busy = false := rfl
@[simp] theorem acceptIllegal_done (op : BitVec 4) (x : State) : (acceptIllegal op x).done = true := rfl
@[simp] theorem acceptIllegal_noroot (op : BitVec 4) (x : State) : (acceptIllegal op x).noroot = false := rfl
@[simp] theorem acceptIllegal_overrun (op : BitVec 4) (x : State) : (acceptIllegal op x).overrun = false := rfl
@[simp] theorem acceptIllegal_err (op : BitVec 4) (x : State) : (acceptIllegal op x).err = .illegalCmd := rfl
@[simp] theorem acceptIllegal_lastop (op : BitVec 4) (x : State) : (acceptIllegal op x).lastop = op := rfl
@[simp] theorem acceptIllegal_ctrl (op : BitVec 4) (x : State) : (acceptIllegal op x).ctrl = .idle := rfl
@[simp] theorem acceptIllegal_m (op : BitVec 4) (x : State) : (acceptIllegal op x).m = x.m := rfl
@[simp] theorem acceptIllegal_i (op : BitVec 4) (x : State) : (acceptIllegal op x).i = x.i := rfl
@[simp] theorem acceptIllegal_exponent (op : BitVec 4) (x : State) : (acceptIllegal op x).exponent = x.exponent := rfl
@[simp] theorem acceptIllegal_opa (op : BitVec 4) (x : State) : (acceptIllegal op x).opa = x.opa := rfl
@[simp] theorem acceptIllegal_opb (op : BitVec 4) (x : State) : (acceptIllegal op x).opb = x.opb := rfl
@[simp] theorem acceptIllegal_ope (op : BitVec 4) (x : State) : (acceptIllegal op x).ope = x.ope := rfl
@[simp] theorem acceptIllegal_result (op : BitVec 4) (x : State) : (acceptIllegal op x).result = enc x.k 0 := rfl
@[simp] theorem acceptIllegal_ln (op : BitVec 4) (x : State) : (acceptIllegal op x).ln = x.ln := rfl
@[simp] theorem acceptIllegal_lp (op : BitVec 4) (x : State) : (acceptIllegal op x).lp = x.lp := rfl
@[simp] theorem acceptIllegal_le (op : BitVec 4) (x : State) : (acceptIllegal op x).le = x.le := rfl
@[simp] theorem acceptIllegal_l (op : BitVec 4) (x : State) : (acceptIllegal op x).l = x.l := rfl
@[simp] theorem acceptIllegal_odd (op : BitVec 4) (x : State) : (acceptIllegal op x).odd = x.odd := rfl
@[simp] theorem acceptIllegal_z (op : BitVec 4) (x : State) : (acceptIllegal op x).z = x.z := rfl
@[simp] theorem acceptIllegal_c (op : BitVec 4) (x : State) : (acceptIllegal op x).c = x.c := rfl
@[simp] theorem acceptIllegal_t (op : BitVec 4) (x : State) : (acceptIllegal op x).t = x.t := rfl
@[simp] theorem acceptIllegal_root (op : BitVec 4) (x : State) : (acceptIllegal op x).root = x.root := rfl
@[simp] theorem acceptIllegal_s (op : BitVec 4) (x : State) : (acceptIllegal op x).s = x.s := rfl
@[simp] theorem acceptIllegal_b (op : BitVec 4) (x : State) : (acceptIllegal op x).b = x.b := rfl
@[simp] theorem acceptIllegal_inputs (op : BitVec 4) (x : State) : (acceptIllegal op x).inputs = x.inputs := rfl
@[simp] theorem acceptIllegal_response (op : BitVec 4) (x : State) : (acceptIllegal op x).response = x.response := rfl
@[simp] theorem acceptIllegal_stalled (op : BitVec 4) (x : State) : (acceptIllegal op x).stalled = x.stalled := rfl

@[simp] theorem overrunCmd_k (x : State) : (overrunCmd x).k = x.k := rfl
@[simp] theorem overrunCmd_busy (x : State) : (overrunCmd x).busy = x.busy := rfl
@[simp] theorem overrunCmd_done (x : State) : (overrunCmd x).done = x.done := rfl
@[simp] theorem overrunCmd_noroot (x : State) : (overrunCmd x).noroot = x.noroot := rfl
@[simp] theorem overrunCmd_overrun (x : State) : (overrunCmd x).overrun = true := rfl
@[simp] theorem overrunCmd_err (x : State) : (overrunCmd x).err = x.err := rfl
@[simp] theorem overrunCmd_lastop (x : State) : (overrunCmd x).lastop = x.lastop := rfl
@[simp] theorem overrunCmd_ctrl (x : State) : (overrunCmd x).ctrl = x.ctrl := rfl
@[simp] theorem overrunCmd_m (x : State) : (overrunCmd x).m = x.m := rfl
@[simp] theorem overrunCmd_i (x : State) : (overrunCmd x).i = x.i := rfl
@[simp] theorem overrunCmd_exponent (x : State) : (overrunCmd x).exponent = x.exponent := rfl
@[simp] theorem overrunCmd_opa (x : State) : (overrunCmd x).opa = x.opa := rfl
@[simp] theorem overrunCmd_opb (x : State) : (overrunCmd x).opb = x.opb := rfl
@[simp] theorem overrunCmd_ope (x : State) : (overrunCmd x).ope = x.ope := rfl
@[simp] theorem overrunCmd_result (x : State) : (overrunCmd x).result = x.result := rfl
@[simp] theorem overrunCmd_ln (x : State) : (overrunCmd x).ln = x.ln := rfl
@[simp] theorem overrunCmd_lp (x : State) : (overrunCmd x).lp = x.lp := rfl
@[simp] theorem overrunCmd_le (x : State) : (overrunCmd x).le = x.le := rfl
@[simp] theorem overrunCmd_l (x : State) : (overrunCmd x).l = x.l := rfl
@[simp] theorem overrunCmd_odd (x : State) : (overrunCmd x).odd = x.odd := rfl
@[simp] theorem overrunCmd_z (x : State) : (overrunCmd x).z = x.z := rfl
@[simp] theorem overrunCmd_c (x : State) : (overrunCmd x).c = x.c := rfl
@[simp] theorem overrunCmd_t (x : State) : (overrunCmd x).t = x.t := rfl
@[simp] theorem overrunCmd_root (x : State) : (overrunCmd x).root = x.root := rfl
@[simp] theorem overrunCmd_s (x : State) : (overrunCmd x).s = x.s := rfl
@[simp] theorem overrunCmd_b (x : State) : (overrunCmd x).b = x.b := rfl
@[simp] theorem overrunCmd_inputs (x : State) : (overrunCmd x).inputs = x.inputs := rfl
@[simp] theorem overrunCmd_response (x : State) : (overrunCmd x).response = x.response := rfl
@[simp] theorem overrunCmd_stalled (x : State) : (overrunCmd x).stalled = x.stalled := rfl

@[simp] theorem resetEvent_k (x : State) : (resetEvent x).k = x.k := rfl
@[simp] theorem resetEvent_busy (x : State) : (resetEvent x).busy = false := rfl
@[simp] theorem resetEvent_done (x : State) : (resetEvent x).done = false := rfl
@[simp] theorem resetEvent_noroot (x : State) : (resetEvent x).noroot = false := rfl
@[simp] theorem resetEvent_overrun (x : State) : (resetEvent x).overrun = false := rfl
@[simp] theorem resetEvent_err (x : State) : (resetEvent x).err = .none := rfl
@[simp] theorem resetEvent_lastop (x : State) : (resetEvent x).lastop = 0#4 := rfl
@[simp] theorem resetEvent_ctrl (x : State) : (resetEvent x).ctrl = .idle := rfl
@[simp] theorem resetEvent_m (x : State) : (resetEvent x).m = 0#32 := rfl
@[simp] theorem resetEvent_i (x : State) : (resetEvent x).i = 0#32 := rfl
@[simp] theorem resetEvent_exponent (x : State) : (resetEvent x).exponent = 0#32 := rfl
@[simp] theorem resetEvent_opa (x : State) : (resetEvent x).opa = zeroWide x.k := rfl
@[simp] theorem resetEvent_opb (x : State) : (resetEvent x).opb = zeroWide x.k := rfl
@[simp] theorem resetEvent_ope (x : State) : (resetEvent x).ope = zeroWide x.k := rfl
@[simp] theorem resetEvent_result (x : State) : (resetEvent x).result = zeroWide x.k := rfl
@[simp] theorem resetEvent_ln (x : State) : (resetEvent x).ln = zeroWide x.k := rfl
@[simp] theorem resetEvent_lp (x : State) : (resetEvent x).lp = zeroWide x.k := rfl
@[simp] theorem resetEvent_le (x : State) : (resetEvent x).le = zeroWide x.k := rfl
@[simp] theorem resetEvent_l (x : State) : (resetEvent x).l = zeroWide x.k := rfl
@[simp] theorem resetEvent_odd (x : State) : (resetEvent x).odd = zeroWide x.k := rfl
@[simp] theorem resetEvent_z (x : State) : (resetEvent x).z = zeroWide x.k := rfl
@[simp] theorem resetEvent_c (x : State) : (resetEvent x).c = zeroWide x.k := rfl
@[simp] theorem resetEvent_t (x : State) : (resetEvent x).t = zeroWide x.k := rfl
@[simp] theorem resetEvent_root (x : State) : (resetEvent x).root = zeroWide x.k := rfl
@[simp] theorem resetEvent_s (x : State) : (resetEvent x).s = zeroWide x.k := rfl
@[simp] theorem resetEvent_b (x : State) : (resetEvent x).b = zeroWide x.k := rfl
@[simp] theorem resetEvent_inputs (x : State) : (resetEvent x).inputs = x.inputs := rfl
@[simp] theorem resetEvent_response (x : State) : (resetEvent x).response = x.response := rfl
@[simp] theorem resetEvent_stalled (x : State) : (resetEvent x).stalled = x.stalled := rfl

@[simp] theorem resetWith_k (k : Nat) : (State.resetWith k).k = k := rfl
@[simp] theorem resetWith_busy (k : Nat) : (State.resetWith k).busy = false := rfl
@[simp] theorem resetWith_done (k : Nat) : (State.resetWith k).done = false := rfl
@[simp] theorem resetWith_noroot (k : Nat) : (State.resetWith k).noroot = false := rfl
@[simp] theorem resetWith_overrun (k : Nat) : (State.resetWith k).overrun = false := rfl
@[simp] theorem resetWith_err (k : Nat) : (State.resetWith k).err = .none := rfl
@[simp] theorem resetWith_lastop (k : Nat) : (State.resetWith k).lastop = 0#4 := rfl
@[simp] theorem resetWith_ctrl (k : Nat) : (State.resetWith k).ctrl = .idle := rfl
@[simp] theorem resetWith_m (k : Nat) : (State.resetWith k).m = 0#32 := rfl
@[simp] theorem resetWith_i (k : Nat) : (State.resetWith k).i = 0#32 := rfl
@[simp] theorem resetWith_exponent (k : Nat) : (State.resetWith k).exponent = 0#32 := rfl
@[simp] theorem resetWith_opa (k : Nat) : (State.resetWith k).opa = zeroWide k := rfl
@[simp] theorem resetWith_opb (k : Nat) : (State.resetWith k).opb = zeroWide k := rfl
@[simp] theorem resetWith_ope (k : Nat) : (State.resetWith k).ope = zeroWide k := rfl
@[simp] theorem resetWith_result (k : Nat) : (State.resetWith k).result = zeroWide k := rfl
@[simp] theorem resetWith_ln (k : Nat) : (State.resetWith k).ln = zeroWide k := rfl
@[simp] theorem resetWith_lp (k : Nat) : (State.resetWith k).lp = zeroWide k := rfl
@[simp] theorem resetWith_le (k : Nat) : (State.resetWith k).le = zeroWide k := rfl
@[simp] theorem resetWith_l (k : Nat) : (State.resetWith k).l = zeroWide k := rfl
@[simp] theorem resetWith_odd (k : Nat) : (State.resetWith k).odd = zeroWide k := rfl
@[simp] theorem resetWith_z (k : Nat) : (State.resetWith k).z = zeroWide k := rfl
@[simp] theorem resetWith_c (k : Nat) : (State.resetWith k).c = zeroWide k := rfl
@[simp] theorem resetWith_t (k : Nat) : (State.resetWith k).t = zeroWide k := rfl
@[simp] theorem resetWith_root (k : Nat) : (State.resetWith k).root = zeroWide k := rfl
@[simp] theorem resetWith_s (k : Nat) : (State.resetWith k).s = zeroWide k := rfl
@[simp] theorem resetWith_b (k : Nat) : (State.resetWith k).b = zeroWide k := rfl
@[simp] theorem resetWith_inputs (k : Nat) : (State.resetWith k).inputs = [] := rfl
@[simp] theorem resetWith_response (k : Nat) : (State.resetWith k).response = .none := rfl
@[simp] theorem resetWith_stalled (k : Nat) : (State.resetWith k).stalled = false := rfl

/-- A write of an operand word changes no register but the operand's own (20_memory.md R47). -/
theorem writeWide_eq (r : WideReg) (j : Nat) (v : Word) (x : State) :
    writeWide r j v x = { x with
      opa := if r = .opa then setWord x.opa j v else x.opa
      opb := if r = .opb then setWord x.opb j v else x.opb
      ope := if r = .ope then setWord x.ope j v else x.ope } := by
  cases r <;> rfl

@[simp] theorem writeWide_k (r : WideReg) (j : Nat) (v : Word) (x : State) : (writeWide r j v x).k = x.k := by
  cases r <;> rfl
@[simp] theorem writeWide_busy (r : WideReg) (j : Nat) (v : Word) (x : State) : (writeWide r j v x).busy = x.busy := by
  cases r <;> rfl
@[simp] theorem writeWide_done (r : WideReg) (j : Nat) (v : Word) (x : State) : (writeWide r j v x).done = x.done := by
  cases r <;> rfl
@[simp] theorem writeWide_noroot (r : WideReg) (j : Nat) (v : Word) (x : State) : (writeWide r j v x).noroot = x.noroot := by
  cases r <;> rfl
@[simp] theorem writeWide_overrun (r : WideReg) (j : Nat) (v : Word) (x : State) : (writeWide r j v x).overrun = x.overrun := by
  cases r <;> rfl
@[simp] theorem writeWide_err (r : WideReg) (j : Nat) (v : Word) (x : State) : (writeWide r j v x).err = x.err := by
  cases r <;> rfl
@[simp] theorem writeWide_lastop (r : WideReg) (j : Nat) (v : Word) (x : State) : (writeWide r j v x).lastop = x.lastop := by
  cases r <;> rfl
@[simp] theorem writeWide_ctrl (r : WideReg) (j : Nat) (v : Word) (x : State) : (writeWide r j v x).ctrl = x.ctrl := by
  cases r <;> rfl
@[simp] theorem writeWide_m (r : WideReg) (j : Nat) (v : Word) (x : State) : (writeWide r j v x).m = x.m := by
  cases r <;> rfl
@[simp] theorem writeWide_i (r : WideReg) (j : Nat) (v : Word) (x : State) : (writeWide r j v x).i = x.i := by
  cases r <;> rfl
@[simp] theorem writeWide_exponent (r : WideReg) (j : Nat) (v : Word) (x : State) : (writeWide r j v x).exponent = x.exponent := by
  cases r <;> rfl
@[simp] theorem writeWide_opa (r : WideReg) (j : Nat) (v : Word) (x : State) :
    (writeWide r j v x).opa = if r = .opa then setWord x.opa j v else x.opa := by cases r <;> rfl
@[simp] theorem writeWide_opb (r : WideReg) (j : Nat) (v : Word) (x : State) :
    (writeWide r j v x).opb = if r = .opb then setWord x.opb j v else x.opb := by cases r <;> rfl
@[simp] theorem writeWide_ope (r : WideReg) (j : Nat) (v : Word) (x : State) :
    (writeWide r j v x).ope = if r = .ope then setWord x.ope j v else x.ope := by cases r <;> rfl
@[simp] theorem writeWide_result (r : WideReg) (j : Nat) (v : Word) (x : State) : (writeWide r j v x).result = x.result := by
  cases r <;> rfl
@[simp] theorem writeWide_ln (r : WideReg) (j : Nat) (v : Word) (x : State) : (writeWide r j v x).ln = x.ln := by
  cases r <;> rfl
@[simp] theorem writeWide_lp (r : WideReg) (j : Nat) (v : Word) (x : State) : (writeWide r j v x).lp = x.lp := by
  cases r <;> rfl
@[simp] theorem writeWide_le (r : WideReg) (j : Nat) (v : Word) (x : State) : (writeWide r j v x).le = x.le := by
  cases r <;> rfl
@[simp] theorem writeWide_l (r : WideReg) (j : Nat) (v : Word) (x : State) : (writeWide r j v x).l = x.l := by
  cases r <;> rfl
@[simp] theorem writeWide_odd (r : WideReg) (j : Nat) (v : Word) (x : State) : (writeWide r j v x).odd = x.odd := by
  cases r <;> rfl
@[simp] theorem writeWide_z (r : WideReg) (j : Nat) (v : Word) (x : State) : (writeWide r j v x).z = x.z := by
  cases r <;> rfl
@[simp] theorem writeWide_c (r : WideReg) (j : Nat) (v : Word) (x : State) : (writeWide r j v x).c = x.c := by
  cases r <;> rfl
@[simp] theorem writeWide_t (r : WideReg) (j : Nat) (v : Word) (x : State) : (writeWide r j v x).t = x.t := by
  cases r <;> rfl
@[simp] theorem writeWide_root (r : WideReg) (j : Nat) (v : Word) (x : State) : (writeWide r j v x).root = x.root := by
  cases r <;> rfl
@[simp] theorem writeWide_s (r : WideReg) (j : Nat) (v : Word) (x : State) : (writeWide r j v x).s = x.s := by
  cases r <;> rfl
@[simp] theorem writeWide_b (r : WideReg) (j : Nat) (v : Word) (x : State) : (writeWide r j v x).b = x.b := by
  cases r <;> rfl
@[simp] theorem writeWide_inputs (r : WideReg) (j : Nat) (v : Word) (x : State) : (writeWide r j v x).inputs = x.inputs := by
  cases r <;> rfl
@[simp] theorem writeWide_response (r : WideReg) (j : Nat) (v : Word) (x : State) : (writeWide r j v x).response = x.response := by
  cases r <;> rfl
@[simp] theorem writeWide_stalled (r : WideReg) (j : Nat) (v : Word) (x : State) : (writeWide r j v x).stalled = x.stalled := by
  cases r <;> rfl

end Sys2Proof.Laws
end

