-- ==== Sys2Proof/Laws/Ops.lean ====
section
/-! SUPPORT. For each shared operation and each state rule, once, everything it can do. -/

namespace Sys2Proof.Laws

open Sys2Proof.Machine

theorem withModulus_of_pos {p : Int} (h : 0 < p) (r : Result) : withModulus p r = r := by simp [withModulus, h]

theorem withModulus_next {p : Int} {r : Result} {s' : State} : withModulus p r = .next s' ↔ 0 < p ∧ r = .next s' := by
  unfold withModulus
  split <;> simp_all

/-- A command word is accepted when the engine is idle, and dropped with OVERRUN when it is busy. -/
theorem issue_eq (op : BitVec 4) (en : CtrlState) (s : State) :
    issue op en s = .next (if s.busy then overrunCmd s else acceptLegal op en s) := by
  unfold issue
  split <;> rfl

/-- Every command word is answered with a next state: the overrun, or the accept with the command's opcode and entry
state. -/
theorem exec_eq (i : Instr) (s : State) :
    exec i s = .next (if s.busy then overrunCmd s
      else acceptLegal (opField (encode i))
        (match i with | .modpow => .mpExec | .legendre => .lgExec | .tsqrt => .tsValidate) s) := by
  cases i <;> exact issue_eq ..

theorem stepMpExec_eq (s : State) : stepMpExec s = .next (
    if opP s < 0 then finishErr .value s
    else if opP s = 0 then finishErr .modulusZero s
    else finishOk (modpow (opN s) (opE s) (opP s)) s) := by
  unfold stepMpExec
  split
  · rfl
  · split <;> rfl

theorem stepLgExec_eq (s : State) : stepLgExec s = .next (
    if opP s < 0 then finishErr .value s
    else if opP s = 0 then finishErr .modulusZero s
    else finishOk (legendre (opN s) (opP s)) { s with l := enc s.k (legendre (opN s) (opP s)) }) := by
  unfold stepLgExec
  split
  · rfl
  · split <;> rfl

theorem stepValidate_next {s s' : State} (h : stepValidate s = .next s') :
    (opP s < 0 ∧ s' = finishErr .value s) ∨ (0 ≤ opP s ∧ s' = { s with ctrl := .tsZero }) := by
  unfold stepValidate at h
  split at h
  · exact .inl ⟨‹_›, by simpa using h.symm⟩
  · exact .inr ⟨by omega, by simpa using h.symm⟩

theorem stepZero_next {s s' : State} (h : stepZero s = .next s') :
    (opN s = 0 ∧ s' = finishOk 0 s) ∨ (opN s ≠ 0 ∧ s' = { s with ctrl := .tsLegendre }) := by
  unfold stepZero at h
  split at h
  · exact .inl ⟨‹_›, by simpa using h.symm⟩
  · exact .inr ⟨‹_›, by simpa using h.symm⟩

theorem stepLegendre_next {s s' : State} (h : stepLegendre s = .next s') :
    (opP s = 0 ∧ s' = finishErr .modulusZero s) ∨
    (0 < opP s ∧ legendre (opN s) (opP s) ≠ 1 ∧
      s' = finishNoroot { s with l := enc s.k (legendre (opN s) (opP s)) }) ∨
    (0 < opP s ∧ legendre (opN s) (opP s) = 1 ∧
      s' = { s with l := enc s.k (legendre (opN s) (opP s)), odd := enc s.k (opP s - 1), exponent := 0#32,
                    ctrl := .tsDecomp }) := by
  unfold stepLegendre at h
  split at h
  · exact .inl ⟨‹_›, by simpa using h.symm⟩
  · obtain ⟨hp, h⟩ := withModulus_next.mp h
    simp only at h
    split at h
    · exact .inr (.inl ⟨hp, ‹_›, by simpa using h.symm⟩)
    · exact .inr (.inr ⟨hp, not_not.mp ‹_›, by simpa using h.symm⟩)

theorem stepDecomp_next {s s' : State} (h : stepDecomp s = .next s') :
    (uval s.odd % 2 = 0 ∧
      s' = { s with odd := enc s.k (uval s.odd / 2 : Nat), exponent := s.exponent + 1#32, ctrl := .tsDecomp }) ∨
    (uval s.odd % 2 = 1 ∧ s.exponent = 1#32 ∧ s' = { s with ctrl := .tsFast }) ∨
    (uval s.odd % 2 = 1 ∧ s.exponent ≠ 1#32 ∧ s' = { s with z := enc s.k 2, ctrl := .tsWscan }) := by
  unfold stepDecomp at h
  simp only at h
  split at h
  · exact .inl ⟨‹_›, by simpa using h.symm⟩
  · split at h
    · exact .inr (.inl ⟨by omega, ‹_›, by simpa using h.symm⟩)
    · exact .inr (.inr ⟨by omega, ‹_›, by simpa using h.symm⟩)

theorem stepFast_next {s s' : State} (h : stepFast s = .next s') :
    0 < opP s ∧
    s' = { s with root := enc s.k (modpow (opN s) ((opP s + 1) / 4).toNat (opP s)), ctrl := .tsCanon } := by
  obtain ⟨hp, h⟩ := withModulus_next.mp h
  exact ⟨hp, by simpa using h.symm⟩

theorem stepWscan_next {s s' : State} (h : stepWscan s = .next s') :
    (opP s ≤ uval s.z ∧ s' = finishErr .witnessNotFound s) ∨
    ((uval s.z : Int) < opP s ∧ legendre (uval s.z) (opP s) = opP s - 1 ∧ s' = { s with ctrl := .tsInit }) ∨
    ((uval s.z : Int) < opP s ∧ legendre (uval s.z) (opP s) ≠ opP s - 1 ∧
      s' = { s with z := enc s.k ((uval s.z : Int) + 1), ctrl := .tsWscan }) := by
  unfold stepWscan at h
  simp only at h
  split at h
  · exact .inl ⟨‹_›, by simpa using h.symm⟩
  · split at h
    · exact .inr (.inl ⟨by omega, ‹_›, by simpa using h.symm⟩)
    · exact .inr (.inr ⟨by omega, ‹_›, by simpa using h.symm⟩)

theorem stepInit_next {s s' : State} (h : stepInit s = .next s') :
    0 < opP s ∧
    s' = { s with
      c := enc s.k (modpow (uval s.z) (uval s.odd) (opP s))
      root := enc s.k (modpow (opN s) ((uval s.odd + 1) / 2) (opP s))
      t := enc s.k (modpow (opN s) (uval s.odd) (opP s))
      m := s.exponent
      ctrl := .tsLoop } := by
  obtain ⟨hp, h⟩ := withModulus_next.mp h
  exact ⟨hp, by simpa using h.symm⟩

theorem stepLoop_next {s s' : State} (h : stepLoop s = .next s') :
    0 < opP s ∧
    (((uval s.t : Int) - 1) % opP s = 0 ∧ s' = { s with ctrl := .tsCanon } ∨
     ((uval s.t : Int) - 1) % opP s ≠ 0 ∧
      s' = { s with s := enc s.k (modmul (uval s.t) (uval s.t) (opP s)), i := 1#32, ctrl := .tsIscan }) := by
  obtain ⟨hp, h⟩ := withModulus_next.mp h
  refine ⟨hp, ?_⟩
  simp only at h
  split at h
  · exact .inl ⟨‹_›, by simpa using h.symm⟩
  · exact .inr ⟨‹_›, by simpa using h.symm⟩

theorem stepIscan_next {s s' : State} (h : stepIscan s = .next s') :
    (s.m.toNat ≤ s.i.toNat ∧ s' = finishErr .noConvergence s) ∨
    (s.i.toNat < s.m.toNat ∧ 0 < opP s ∧
      (((uval s.s : Int) - 1) % opP s = 0 ∧ s' = { s with ctrl := .tsBcomp } ∨
       ((uval s.s : Int) - 1) % opP s ≠ 0 ∧
        s' = { s with s := enc s.k (modmul (uval s.s) (uval s.s) (opP s)), i := s.i + 1#32, ctrl := .tsIscan })) := by
  unfold stepIscan at h
  split at h
  · exact .inl ⟨‹_›, by simpa using h.symm⟩
  · obtain ⟨hp, h⟩ := withModulus_next.mp h
    refine .inr ⟨by omega, hp, ?_⟩
    simp only at h
    split at h
    · exact .inl ⟨‹_›, by simpa using h.symm⟩
    · exact .inr ⟨‹_›, by simpa using h.symm⟩

theorem stepBcomp_next {s s' : State} (h : stepBcomp s = .next s') :
    s.i.toNat < s.m.toNat ∧ 0 < opP s ∧
    s' = { s with
      b := enc s.k (modpow (uval s.c) (2 ^ (s.m.toNat - s.i.toNat - 1)) (opP s)), ctrl := .tsUpdate } := by
  unfold stepBcomp at h
  split at h
  · simp at h
  · obtain ⟨hp, h⟩ := withModulus_next.mp h
    exact ⟨by omega, hp, by simpa using h.symm⟩

/-- T is multiplied by the C just written, `b²` (42_tonelli_shanks.md R96). -/
theorem stepUpdate_next {s s' : State} (h : stepUpdate s = .next s') :
    0 < opP s ∧
    s' = { s with
      root := enc s.k (modmul (uval s.root) (uval s.b) (opP s))
      c := enc s.k (modmul (uval s.b) (uval s.b) (opP s))
      t := enc s.k (modmul (uval s.t) (uval (enc s.k (modmul (uval s.b) (uval s.b) (opP s)))) (opP s))
      m := s.i
      ctrl := .tsLoop } := by
  obtain ⟨hp, h⟩ := withModulus_next.mp h
  exact ⟨hp, by simpa using h.symm⟩

theorem stepCanon_eq (s : State) :
    stepCanon s = .next (finishOk (min (uval s.root : Int) (opP s - uval s.root)) s) := rfl

/-- A read of the window either answers the word and changes nothing else, or is refused. -/
theorem hostRead_eq (off : Offset) (size : Nat) (s : State) :
    hostRead off size s =
      if size = 4 ∧ off.toNat % 4 = 0 then .next { s with response := .data (readTarget s (target s.k off)) }
      else .refused (.busError off size) := by
  unfold hostRead accessWellFormed
  simp only [decide_eq_true_eq]

theorem hostWrite_eq (off : Offset) (size : Nat) (v : Word) (s : State) :
    hostWrite off size v s =
      if size = 4 ∧ off.toNat % 4 = 0 then writeTarget v { s with response := .written } (target s.k off)
      else .refused (.busError off size) := by
  unfold hostWrite accessWellFormed
  simp only [decide_eq_true_eq]

/-- Every CMD write is answered with a next state. -/
theorem writeCmd_eq (w : Word) (s : State) :
    ∃ s', writeCmd w s = .next s' ∧
      ((s.busy = true ∧ s' = overrunCmd s) ∨
       (s.busy = false ∧ (∃ e, decode w = .error e) ∧ s' = acceptIllegal (opField w) s) ∨
       (s.busy = false ∧ ∃ i, decode w = .ok i ∧ exec i s = .next s')) := by
  unfold writeCmd
  split
  · exact ⟨_, rfl, .inl ⟨‹_›, rfl⟩⟩
  · rename_i hb
    have hb : s.busy = false := by simpa using hb
    split
    · rename_i i hi
      exact ⟨_, exec_eq i s, .inr (.inr ⟨hb, i, hi, exec_eq i s⟩)⟩
    · rename_i e he
      exact ⟨_, rfl, .inr (.inl ⟨hb, ⟨e, he⟩, rfl⟩)⟩

/-- Every write of a target is answered with a next state. -/
theorem writeTarget_next (v : Word) (s : State) (g : Target) :
    (g = .cmd ∧ writeTarget v s g = writeCmd v s) ∨
    (∃ r j, g = .wide r j ∧ writeTarget v s g = .next (writeWide r j v s)) ∨
    (g ≠ .cmd ∧ (∀ r j, g ≠ .wide r j) ∧ writeTarget v s g = .next s) := by
  cases g <;> simp [writeTarget]

/-- The offset of word `j` of a wide register names that word (20_memory.md R42, R45). -/
theorem target_wideOffset (k : Nat) (r : WideReg) (j : Nat) (hj : j < 64) :
    target k (wideOffset r j) = if j < k then .wide r j else .reserved := by
  have h : (wideOffset r j).toNat = (wideBase r).toNat + 4 * j := by
    have : (wideBase r).toNat ≤ 0xF00 := by cases r <;> decide
    simp only [wideOffset, BitVec.toNat_add, BitVec.toNat_ofNat]
    omega
  have hb : (wideBase r).toNat % 256 = 0 ∧ wideOfWindow ((wideBase r).toNat / 256) = some r := by
    cases r <;> decide
  have h1 : ((wideBase r).toNat + 4 * j) / 256 = (wideBase r).toNat / 256 := by omega
  have h2 : ((wideBase r).toNat + 4 * j) % 256 / 4 = j := by omega
  simp [target, h, h1, h2, hb.2]

/-- A step is the next listed event's, or the engine's turn, or nothing on a stalled schedule. -/
theorem step_nil {s : State} (h : s.inputs = []) : step s = if s.stalled then .next s else engineTurn s := by
  simp [step, stepEvent, h]

theorem step_cons {s : State} {x : Input} {rest : List Input} (h : s.inputs = x :: rest) :
    step s = runInput x { s with inputs := rest } := by
  simp [step, stepEvent, h]

end Sys2Proof.Laws
end

