-- ==== Sys2Proof/Laws/PerInstr.lean ====
section
/-! SUPPORT. Statements for all commands, made per command. -/

namespace Sys2Proof.Laws.Encoding

open Sys2Proof

/-- A command is well formed, its word is decoded to it, and its word has no reserved bit set (30_encoding.md R56, R57,
R61). -/
def Statement (i : Instr) : Prop := i.wellFormed = true ∧ decode (encode i) = .ok i ∧ rsvdField (encode i) = 0

theorem modpow : Statement .modpow := ⟨rfl, rfl, rfl⟩

theorem legendre : Statement .legendre := ⟨rfl, rfl, rfl⟩

theorem tsqrt : Statement .tsqrt := ⟨rfl, rfl, rfl⟩

end Sys2Proof.Laws.Encoding
end

