-- ==== Sys2Proof/Laws/Runs.lean ====
section
/-! SUPPORT. Runs, one step at a time: the machine's run, and a system under an endless schedule. -/

namespace Sys2Proof.Laws

open Sys2Proof.Machine

/-- The machine's run goes on from the next state. -/
theorem core_run_succ {n : Nat} {s t : State} (h : step s = .next t) :
    Host.Core.run Sys2Proof.core (n + 1) s = Host.Core.run Sys2Proof.core n t := by
  have run_succ (M : Host.Core) (a b : M.State) (h : M.step a = .next b) : M.run (n + 1) a = M.run n b := by
    simp only [Host.Core.run, h]
  exact run_succ Sys2Proof.core s t h

/-- A schedule in two parts. -/
theorem systemRun_append (ts us : List Turn) (y : System) :
    systemRun (ts ++ us) y =
      match systemRun ts y with
      | .next z => systemRun us z
      | .fault e => .fault e
      | .refused e => .refused e := by
  induction ts generalizing y with
  | nil => rfl
  | cons t ts ih =>
    simp only [List.cons_append, systemRun]
    split
    · exact ih _
    · rfl
    · rfl

@[simp] theorem systemAt_zero (sch : Nat → Turn) (y : System) : systemAt sch 0 y = .next y := rfl

/-- One more turn of an endless schedule. -/
theorem systemAt_succ {sch : Nat → Turn} {n : Nat} {y z : System} (h : systemAt sch n y = .next z) :
    systemAt sch (n + 1) y = systemTurn (sch n) z := by
  unfold systemAt at h ⊢
  rw [List.range_succ, List.map_append, systemRun_append, h]
  simp only [List.map_cons, List.map_nil, systemRun]
  split <;> simp_all

end Sys2Proof.Laws
end

