-- ==== Sys2Proof/Tests/Slice0.lean ====
section
/-! SUPPORT. Tests of the model, one step each, with expected values from the spec (95_test_vectors.md and the rules named);
and, for every statement with hypotheses, a concrete state and operands that meet them (`test_witness_…`). -/

namespace Sys2Proof.Tests

open Sys2Proof.Machine

/-! ## Decoding: words written out bit by bit from 30_encoding.md R56 and R57 -/

theorem test_decode_modpow : decode 0b0000000000000000000000000000_0001#32 = .ok .modpow := by decide

theorem test_decode_legendre : decode 0b0000000000000000000000000000_0010#32 = .ok .legendre := by decide

theorem test_decode_tsqrt : decode 0b0000000000000000000000000000_0011#32 = .ok .tsqrt := by decide

/-- The illegal words of the table 95_test_vectors.md 2.1, OP = 0, 4, 15 with RSVD = 0. -/
theorem test_decode_illegal_op :
    [0x00000000#32, 0x00000004#32, 0x0000000F#32].map decode = List.replicate 3 (.error .illegalOp) := by decide

/-- The illegal words of the table 95_test_vectors.md 2.1 with RSVD ≠ 0, each of the reserved field's ends among them. -/
theorem test_decode_reserved :
    [0x00000013#32, 0x00000010#32, 0x80000002#32, 0xFFFFFFFF#32].map decode = List.replicate 4 (.error .reservedBits) := by
  decide

/-- The lowest address carries bits [7:0] (20_memory.md R43), and three bytes are no word (30_encoding.md R60). -/
theorem test_decode_bytes :
    decodeBytes [0x03#8, 0x00#8, 0x00#8, 0x00#8, 0xAA#8] = .ok (.tsqrt, [0xAA#8]) ∧
    decodeBytes [0x00#8, 0x00#8, 0x00#8, 0x03#8] = .error .reservedBits ∧
    decodeBytes [0x01#8, 0x00#8, 0x00#8] = .error .truncated := by decide

/-- The rows of spec/opcode_table.json, with their 32 bits. -/
theorem test_decode_table_words :
    [1, 2, 3].map (decodeTableWord 32) = [some .modpow, some .legendre, some .tsqrt] ∧ decodeTableWord 32 4 = none := by
  decide

/-! ## Well-formedness: an ill-formed term for each check -/

theorem test_wellFormed_rejects_k : kWellFormed 0 = false ∧ kWellFormed 65 = false ∧ kWellFormed 1 = true ∧
    kWellFormed 64 = true := by decide

theorem test_wellFormed_rejects_access :
    accessWellFormed 0x002#12 4 = false ∧ accessWellFormed 0x008#12 1 = false ∧ accessWellFormed 0xFFC#12 4 = true := by
  decide

theorem test_wellFormed_rejects_input :
    Input.wellFormed (.read 0x001#12 4) = false ∧ Input.wellFormed (.write 0x100#12 8 0#32) = false ∧
    Input.wellFormed (.write 0x100#12 4 0#32) = true := by decide

/-- A store at a byte offset, a load at one, a branch to a label that is not defined, a label defined twice. -/
theorem test_wellFormed_rejects_program :
    programWellFormed [.sw 0x101#12 1] = false ∧ programWellFormed [.lw 0 0x00A#12] = false ∧
    programWellFormed [.bnz 0 1#32 7] = false ∧ programWellFormed [.label 1, .label 1] = false ∧
    programWellFormed ([.command .tsqrt] ++ waitStmts 0 1 ++ [.sum 1 [0], .halt]) = true := by decide

/-- A command's word has no operand field, so no term of Instr is ill formed (30_encoding.md R56). -/
theorem test_wellFormed_commands : [Instr.modpow, .legendre, .tsqrt].all Instr.wellFormed = true := by decide

/-! ## Small states -/

/-- An idle engine of `k` words with these operands (`enc_W` of each). -/
def idleState (k : Nat) (a b : Int) (e : Nat) : State :=
  { State.resetWith k with opa := enc k a, opb := enc k b, ope := enc k e }

/-- A running MODPOW, LEGENDRE or TSQRT of a K = 1 engine, with latched operands (95_test_vectors.md, K = 1). -/
def runState (c : CtrlState) (n p : Int) : State :=
  { State.resetWith 1 with busy := true, ctrl := c, lastop := c.opcode, ln := enc 1 n, lp := enc 1 p }

/-- A running TSQRT past the residue test, with the decomposition and the witness candidate. -/
def runDecomposed (c : CtrlState) (n p : Int) (odd ex z : Nat) : State :=
  { runState c n p with l := enc 1 1, odd := enc 1 odd, exponent := BitVec.ofNat 32 ex, z := enc 1 z }

/-- A running TSQRT in the outer loop. -/
def runLoop (c : CtrlState) (n p : Int) (odd ex z cv root t m : Nat) : State :=
  { runDecomposed c n p odd ex z with
    c := enc 1 cv, root := enc 1 root, t := enc 1 t, m := BitVec.ofNat 32 m }

/-- What a step answers as a next state. -/
def nextOf : Result → Option State
  | .next s => some s
  | .fault _ => none
  | .refused _ => none

/-- The step ends the command with this STATUS word and RESULT. -/
def endsWith (r : Result) (status : Word) (result : Nat) : Bool :=
  match r with
  | .next t => statusWord t == status && uval t.result == result && decide (t.ctrl = .idle)
  | .fault _ => false
  | .refused _ => false

/-- The invariant, in a form that evaluates. -/
def invOk (s : State) : Bool :=
  decide (1 ≤ s.k ∧ s.k ≤ Config.maxK) &&
  [s.opa, s.opb, s.ope, s.result, s.ln, s.lp, s.le, s.l, s.odd, s.z, s.c, s.t, s.root, s.s, s.b].all
    (fun v => v.length == s.k) &&
  decide (s.busy = false ↔ s.ctrl = .idle) &&
  decide (s.busy = true → s.done = false ∧ s.noroot = false ∧ s.err = .none ∧ s.lastop = s.ctrl.opcode) &&
  decide (s.noroot = true → s.done = true ∧ s.err = .none ∧ s.lastop = 3#4 ∧ uval s.result = 0) &&
  decide (s.err ≠ .none → s.done = true ∧ s.noroot = false ∧ uval s.result = 0) &&
  decide (s.err.hardware = true) &&
  decide (uval s.result < 2 ^ (bitWidth s.k - 1)) &&
  decide (s.ctrl.validated = true → 0 ≤ opP s) &&
  decide (s.ctrl.nonzero = true → opN s ≠ 0) &&
  decide (s.ctrl.residue = true → 2 ≤ opP s ∧ legendre (opN s) (opP s) = 1 ∧ uval s.l = 1) &&
  decide (s.ctrl.residue = true → (uval s.odd : Int) * 2 ^ s.exponent.toNat = opP s - 1) &&
  decide (s.ctrl.decomposed = true → uval s.odd % 2 = 1) &&
  decide (s.ctrl = .tsFast → s.exponent = 1#32) &&
  decide (s.ctrl = .tsWscan → 2 ≤ uval s.z ∧ (uval s.z : Int) ≤ opP s) &&
  decide (s.ctrl.witnessed = true →
    2 ≤ uval s.z ∧ legendre (uval s.z) (opP s) = opP s - 1 ∧ (uval s.z : Int) < opP s) &&
  decide (s.ctrl = .tsWscan ∨ s.ctrl.witnessed = true →
    ∀ y, y < uval s.z → 2 ≤ y → legendre y (opP s) ≠ opP s - 1) &&
  decide (s.ctrl.looping = true →
    (uval s.c : Int) < opP s ∧ (uval s.t : Int) < opP s ∧ (uval s.root : Int) < opP s ∧
      s.m.toNat ≤ s.exponent.toNat) &&
  decide (s.ctrl = .tsIscan → 1 ≤ s.i.toNat ∧ s.i.toNat ≤ max s.m.toNat 1 ∧ (uval s.s : Int) < opP s) &&
  decide (s.ctrl.scanned = true → 1 ≤ s.i.toNat ∧ s.i.toNat < s.m.toNat) &&
  decide (s.ctrl = .tsUpdate → (uval s.b : Int) < opP s) &&
  decide (s.ctrl = .tsCanon → (uval s.root : Int) < opP s)

theorem inv_of_ok {s : State} (h : invOk s = true) : Inv s := by
  simp only [invOk, Bool.and_eq_true, decide_eq_true_eq] at h
  obtain ⟨⟨⟨⟨⟨⟨⟨⟨⟨⟨⟨⟨⟨⟨⟨⟨⟨⟨⟨⟨⟨h1, hl⟩, h3⟩, h4⟩, h5⟩, h6⟩, h7⟩, h8⟩, h9⟩, h10⟩, h11⟩, h12⟩, h13⟩, h14⟩, h15⟩, h16⟩, h17⟩,
    h18⟩, h19⟩, h20⟩, h21⟩, h22⟩ := h
  refine ⟨h1, ?_, h3, h4, h5, h6, h7, h8, h9, h10, h11, h12, h13, h14, h15, h16, fun hc y h2 hy => h17 hc y hy h2, h18,
    h19, h20, h21, h22⟩
  intro r
  have hl := List.all_eq_true.mp hl (wideReg s r) (by cases r <;> simp only [wideReg, List.mem_cons, true_or, or_true])
  exact beq_iff_eq.mp hl

/-- The loop invariant, in a form that evaluates. -/
def loopOk (s : State) : Bool :=
  decide (s.ctrl.looping = true → ((uval s.root : Int) * uval s.root) % opP s = (opN s * uval s.t) % opP s) &&
  decide (s.ctrl = .tsIscan → (uval s.s : Int) = ((uval s.t : Int) ^ 2 ^ s.i.toNat) % opP s) &&
  decide (s.ctrl = .tsIscan ∨ s.ctrl.scanned = true →
    ∀ j, j < s.i.toNat → 1 ≤ j → ((uval s.t : Int) ^ 2 ^ j - 1) % opP s ≠ 0) &&
  decide (s.ctrl.scanned = true → ((uval s.t : Int) ^ 2 ^ s.i.toNat - 1) % opP s = 0)

theorem loop_of_ok {s : State} (h : loopOk s = true) : LoopInv s := by
  simp only [loopOk, Bool.and_eq_true, decide_eq_true_eq] at h
  obtain ⟨⟨⟨h1, h2⟩, h3⟩, h4⟩ := h
  exact ⟨h1, h2, fun hc j h1 hj => h3 hc j hj h1, h4⟩

/-- The prime loop invariant for a modulus known to be prime or not, in a form that evaluates. -/
def primeOk (s : State) : Bool :=
  decide (s.ctrl.looping = true →
    1 ≤ s.m.toNat ∧ ((uval s.t : Int) ^ 2 ^ (s.m.toNat - 1) - 1) % opP s = 0 ∧
      ((uval s.c : Int) ^ 2 ^ (s.m.toNat - 1) + 1) % opP s = 0) &&
  decide (s.ctrl = .tsIscan ∨ s.ctrl.scanned = true → ((uval s.t : Int) - 1) % opP s ≠ 0) &&
  decide (s.ctrl = .tsUpdate → (uval s.b : Int) = (uval s.c : Int) ^ 2 ^ (s.m.toNat - s.i.toNat - 1) % opP s)

theorem prime_of_ok {s : State} (h : primeOk s = true) : PrimeLoopInv s := by
  simp only [primeOk, Bool.and_eq_true, decide_eq_true_eq] at h
  obtain ⟨⟨h1, h2⟩, h3⟩ := h
  exact ⟨fun hc _ _ => h1 hc, h2, h3⟩

/-! ## MODPOW and LEGENDRE: one engine step (95_test_vectors.md 2.4, 2.5) -/

/-- A negative base (`(−125) mod 7 = 1`), and the most negative modulus. -/
theorem test_modpow :
    endsWith (engineStep { runState .mpExec (-5) 7 with le := enc 1 3 }) 0x00010002#32 1 = true ∧
    endsWith (engineStep { runState .mpExec 3 (-2 ^ 31) with le := enc 1 3 }) 0x00010302#32 0 = true := by
  decide +kernel

/-- The largest exponent and modulus at W = 32, and `0^0 mod 5`. -/
theorem test_modpow_extremes :
    endsWith (engineStep { runState .mpExec 7 (2 ^ 31 - 1) with le := enc 1 (2 ^ 32 - 1) }) 0x00010002#32 343 = true ∧
    endsWith (engineStep (runState .mpExec 0 5)) 0x00010002#32 1 = true := by
  decide +kernel

/-- A non-residue at the largest modulus; a modulus 0. -/
theorem test_legendre :
    endsWith (engineStep (runState .lgExec 3 (2 ^ 31 - 1))) 0x00020002#32 2147483646 = true ∧
    endsWith (engineStep (runState .lgExec 3 0)) 0x00020402#32 0 = true := by
  decide +kernel

/-- Raw values outside the classification: `p = 2` and the composite 9. -/
theorem test_legendre_raw :
    endsWith (engineStep (runState .lgExec 4 2)) 0x00020002#32 1 = true ∧
    endsWith (engineStep (runState .lgExec 5 9)) 0x00020002#32 4 = true := by
  decide +kernel

/-! ## TSQRT: single steps of the tables T2 to T5 and T9 of 95_test_vectors.md -/

/-- T2 steps 8 and 9: TS_INIT, TS_LOOP of (10, 13). -/
theorem test_tsqrt_init :
    nextOf (engineStep (runDecomposed .tsInit 10 13 3 2 2)) = some (runLoop .tsLoop 10 13 3 2 2 8 9 12 2) ∧
    nextOf (engineStep (runLoop .tsLoop 10 13 3 2 2 8 9 12 2)) =
      some { runLoop .tsIscan 10 13 3 2 2 8 9 12 2 with s := enc 1 1, i := 1#32 } := by
  decide +kernel

/-- T9 step 16: the four writes in their order, T from the C just written, products beyond 32 bits. -/
theorem test_tsqrt_update :
    nextOf (engineStep { runLoop .tsUpdate 1589878116 2147483497 268435437 3 5 291288225 1370670794 2147483496 3 with
        s := enc 1 1, i := 1#32, b := enc 1 415680079 }) =
      some { runLoop .tsLoop 1589878116 2147483497 268435437 3 5 2147483496 1234567 1 1 with
        s := enc 1 1, i := 1#32, b := enc 1 415680079 } := by
  decide +kernel

/-- T3 steps 13 and 16: a scan that misses, and `b = c^(2^(4 − 3 − 1))`. -/
theorem test_tsqrt_scan :
    nextOf (engineStep { runLoop .tsIscan 2 17 1 4 3 3 2 2 4 with s := enc 1 4, i := 1#32 }) =
      some { runLoop .tsIscan 2 17 1 4 3 3 2 2 4 with s := enc 1 16, i := 2#32 } ∧
    nextOf (engineStep { runLoop .tsBcomp 2 17 1 4 3 3 2 2 4 with s := enc 1 1, i := 3#32 }) =
      some { runLoop .tsUpdate 2 17 1 4 3 3 2 2 4 with s := enc 1 1, i := 3#32, b := enc 1 3 } := by
  decide +kernel

/-- T5 step 25: the bound is tested before the value; T6 step 15: no witness; T4 step 21: the smaller root. -/
theorem test_tsqrt_endings :
    endsWith (engineStep { runLoop .tsIscan 16 85 21 2 13 84 38 69 1 with s := enc 1 1, i := 1#32 }) 0x00030702#32 0 =
      true ∧
    endsWith (engineStep (runDecomposed .tsWscan 1 9 1 3 9)) 0x00030602#32 0 = true ∧
    endsWith (engineStep (runLoop .tsCanon 5 41 5 3 3 40 28 1 1)) 0x00030002#32 13 = true := by
  decide +kernel

/-- T8: a non-residue, a negative modulus; 2.6: the literal zero at `p = 0`. -/
theorem test_tsqrt_short_endings :
    endsWith (engineStep (runState .tsLegendre 3 7)) 0x00030006#32 0 = true ∧
    endsWith (engineStep (runState .tsValidate 0 (-3))) 0x00030302#32 0 = true ∧
    endsWith (engineStep (runState .tsZero 0 0)) 0x00030002#32 0 = true := by
  decide +kernel

/-- The whole-command function on vectors of 95_test_vectors.md 2.6, outcome and steps. -/
theorem test_tsqrtRun :
    tsqrtRun (-3) 13 = (.ok 6, 14) ∧ tsqrtRun 5 41 = (.ok 13, 21) ∧ tsqrtRun 16 85 = (.err .noConvergence, 25) ∧
    tsqrtRun 1 2 = (.err .witnessNotFound, 5) ∧ tsqrtRun 1 4 = (.ok 1, 9) := by
  decide +kernel

/-! ## Accept, overrun, reset, the window (95_test_vectors.md 2.1 to 2.3) -/

/-- Row A5: a second CMD write is dropped and sets OVERRUN. -/
theorem test_overrun :
    (nextOf (exec .modpow (runState .tsValidate 2 17))).map (fun t => (statusWord t, stateWord t)) =
      some (0x00030009#32, 3#32) := by
  decide +kernel

/-- Row A7: accept clears DONE and OVERRUN, recopies the latches, clears the working registers and keeps RESULT. -/
theorem test_accept :
    (nextOf (exec .legendre { idleState 1 2 17 9 with
        done := true, overrun := true, lastop := 3#4, result := enc 1 6, root := enc 1 6 })).map
        (fun t => (statusWord t, stateWord t, [t.ln, t.lp, t.le, t.result, t.root])) =
      some (0x00020001#32, 2#32, [[2#32], [17#32], [9#32], [6#32], [0#32]]) := by
  decide +kernel

/-- Row A9: an illegal word ends at once, with the latches and L kept. -/
theorem test_illegal_word :
    (nextOf (step { runState .idle 2 17 with
        busy := false, l := enc 1 1, result := enc 1 1, inputs := [.write offCmd 4 0x13#32] })).map
        (fun t => (statusWord t, uval t.result, uval t.ln, uval t.lp, uval t.l)) =
      some (0x00030502#32, 0, 2, 17, 1) := by
  decide +kernel

/-- Row A10: reset while a command runs. -/
theorem test_reset_event :
    (nextOf (step { runState .tsIscan 2 17 with opa := enc 1 2, inputs := [.reset, .engine] })) =
      some { State.reset with inputs := [.engine] } := by
  decide +kernel

/-- 2.2: word 1 of OPA exists for K = 2 alone; writes to RESULT and STATUS are ignored. -/
theorem test_window_writes :
    (nextOf (hostWrite 0x104#12 4 0x12345678#32 (State.resetWith 2))).map (fun t => t.opa) =
      some [0#32, 0x12345678#32] ∧
    nextOf (hostWrite 0x104#12 4 0x12345678#32 (State.resetWith 1)) =
      some { State.resetWith 1 with response := .written } ∧
    nextOf (hostWrite 0x400#12 4 5#32 (State.resetWith 1)) = some { State.resetWith 1 with response := .written } ∧
    nextOf (hostWrite 0x008#12 4 0xFFFFFFFF#32 (State.resetWith 1)) =
      some { State.resetWith 1 with response := .written } := by
  decide +kernel

/-- 2.2: PARAM, the last word of the window with K = 64, and the refused accesses. -/
theorem test_window_reads :
    (nextOf (hostRead 0x000#12 4 (State.resetWith 2))).map (fun t => t.response) = some (.data 2#32) ∧
    target 64 0xFFC#12 = .wide .b 63 ∧ target 63 0xFFC#12 = .reserved ∧ target 64 0x0FC#12 = .reserved ∧
    hostRead 0x002#12 4 State.reset = .refused (.busError 0x002#12 4) ∧
    hostRead 0x008#12 1 State.reset = .refused (.busError 0x008#12 1) := by
  refine ⟨?_, ?_, ?_, ?_, rfl, rfl⟩ <;> decide +kernel

/-- A command word placed for the next step runs from reset (95_test_vectors.md 2.1). -/
theorem test_withFetchWord :
    (nextOf (step (State.reset.withFetchWord 32 3))).map (fun t => (statusWord t, stateWord t)) =
      some (0x00030001#32, 3#32) := by
  decide +kernel

/-- −5 as `sval_64` (20_memory.md R42), and the widest values of a one-word register. -/
theorem test_sval :
    sval 2 [0xFFFFFFFB#32, 0xFFFFFFFF#32] = -5 ∧ sval 1 [0x80000000#32] = -2 ^ 31 ∧
    sval 1 [0x7FFFFFFF#32] = 2 ^ 31 - 1 ∧ enc 1 (-5) = [0xFFFFFFFB#32] := by
  decide +kernel

/-- The host assembly: `wait`'s branch is taken while BUSY = 1; `setw` refuses what does not fit (30_encoding.md R63). -/
theorem test_host_statements :
    (match hostTurn ⟨⟨waitStmts 0 1, 2, [1], false⟩, State.reset⟩ with
      | .next z => z.host.pc == 0
      | .fault _ => false
      | .refused _ => false) = true ∧
    setw 1 .opa (2 ^ 31) = none ∧ setw 1 .ope (2 ^ 32 - 1) = some [.sw 0x300#12 0xFFFFFFFF] := by
  decide +kernel

/-- The driver: `n = 2^40` on `p = 13` is issued as its residue, a multiple of `p` as `p`, and a modulus beyond 2^31 − 1
is WIDTH (60_exceptions.md R126); the type of `n` is checked first (R125). -/
theorem test_driver :
    driveTsqrtInt 1 (2 ^ 40) 13 = .issue .tsqrt 3 13 0 ∧ driveTsqrtInt 1 (13 * 2 ^ 40) 13 = .issue .tsqrt 13 13 0 ∧
    driveTsqrtInt 1 5 (2 ^ 31) = .report .width ∧ driveTsqrt 1 (.other "str") (.other "list") = .reportType .typeN "str" := by
  decide +kernel

/-! ## Witnesses: every statement's hypotheses are met by a concrete state and operands

The states are those of the tables of 95_test_vectors.md. -/

theorem test_witness_DecoderAcceptsExactlyTheThreeWords :
    (0x10#32).toNat / 16 ≠ 0 ∧ (0x0#32).toNat % 16 ∉ [1, 2, 3] ∧ (0x4#32).toNat % 16 ∉ [1, 2, 3] ∧
    (0xFFFFFFFF#32).toNat / 16 ≠ 0 := by decide

theorem test_witness_DecodeBytesInvertsEncodeBytes :
    decodeBytes [0x01#8, 0#8, 0#8, 0#8, 7#8] = .ok (.modpow, [7#8]) := by decide

theorem test_witness_StepRunsTheDecodedCommand :
    ∃ (s : State) (w : Word) (i : Instr) (rest : List Input), decode w = .ok i ∧ s.busy = false ∧
      s.inputs = .write offCmd 4 w :: rest :=
  ⟨{ State.reset with inputs := [.write offCmd 4 3#32, .engine] }, 3#32, .tsqrt, [.engine], rfl, rfl, rfl⟩

/-- A legal and an illegal word on an idle engine (CmdWriteWhileIdleAccepts, IllegalWordStatus). -/
theorem test_witness_CmdWriteWhileIdleAccepts :
    ∃ s s' : State, s.busy = false ∧ s.inputs = .write offCmd 4 2#32 :: [] ∧
      s'.busy = false ∧ s'.inputs = .write offCmd 4 0x13#32 :: [] ∧ decode 0x13#32 = .error .reservedBits :=
  ⟨{ idleState 1 2 7 0 with inputs := [.write offCmd 4 2#32] }, { idleState 1 2 7 0 with
    inputs := [.write offCmd 4 0x13#32] }, rfl, rfl, rfl, rfl, rfl⟩

theorem test_witness_CmdWriteWhileBusyOnlySetsOverrun :
    ∃ s : State, s.busy = true ∧ s.inputs = .write offCmd 4 1#32 :: [] :=
  ⟨{ runState .tsValidate 2 17 with inputs := [.write offCmd 4 1#32] }, rfl, rfl⟩

/-- Moduli −1, 0 and 1, the ends of the three clauses, and an exponent above 0 (ModpowComputesThePower,
LegendreComputesEulersPower). -/
theorem test_witness_ModpowComputesThePower :
    ∃ a b c : State, (Inv a ∧ a.busy = false ∧ sval a.k a.opb = -1) ∧ (Inv b ∧ b.busy = false ∧ sval b.k b.opb = 0) ∧
      (Inv c ∧ c.busy = false ∧ sval c.k c.opb = 1) :=
  ⟨idleState 1 3 (-1) 3, idleState 1 3 0 3, idleState 1 3 1 3,
    ⟨inv_of_ok (by decide +kernel), rfl, by decide +kernel⟩, ⟨inv_of_ok (by decide +kernel), rfl, by decide +kernel⟩,
    ⟨inv_of_ok (by decide +kernel), rfl, by decide +kernel⟩⟩

/-- `p = 3`, the smallest odd prime, with a residue, a non-residue and a multiple of it. -/
theorem test_witness_LegendreClassifiesResidues :
    ∃ a b c : State, (Inv a ∧ a.busy = false ∧ sval a.k a.opa = 1 ∧ sval a.k a.opb = 3) ∧
      (Inv b ∧ b.busy = false ∧ sval b.k b.opa = 2 ∧ sval b.k b.opb = 3) ∧
      (Inv c ∧ c.busy = false ∧ sval c.k c.opa = -3 ∧ sval c.k c.opb = 3) ∧ Nat.Prime (3 : Int).toNat ∧ (3 : Int) ≠ 2 :=
  ⟨idleState 1 1 3 0, idleState 1 2 3 0, idleState 1 (-3) 3 0,
    ⟨inv_of_ok (by decide +kernel), rfl, by decide +kernel, by decide +kernel⟩,
    ⟨inv_of_ok (by decide +kernel), rfl, by decide +kernel, by decide +kernel⟩,
    ⟨inv_of_ok (by decide +kernel), rfl, by decide +kernel, by decide +kernel⟩, Nat.prime_three, by decide⟩

/-- A state for each outcome of TSQRT: a root by the general and by the fast path, no root, the literal zero, and each error, on
composite moduli where the algorithm fails; a loop whose body never runs, a scan exhausted in the first pass (TsqrtRefinesTheWholeCommand, TsqrtWorkingRegistersAtCompletion). -/
theorem test_witness_TsqrtRefinesTheWholeCommand :
    ∀ np ∈ [((10 : Int), (13 : Int)), (4, 7), (3, 7), (0, 7), (5, -7), (3, 0), (1, 9), (16, 85), (3, 13), (9, 56)],
      Inv (idleState 1 np.1 np.2 0) ∧ (idleState 1 np.1 np.2 0).busy = false := by
  intro np h
  refine ⟨inv_of_ok ?_, rfl⟩
  revert np
  decide +kernel

theorem test_witness_TsqrtStepsAreBounded : 1 ≤ 1 ∧ (2 ^ 31 - 1 : Int) < 2 ^ (bitWidth 1 - 1) := by decide

/-- Both ends of `n`'s range at `p = 3`. -/
theorem test_witness_TsqrtOfASquareIsTheSmallerRoot :
    Nat.Prime (3 : Int).toNat ∧ (3 : Int) ≠ 2 ∧ (1 : Int) ≤ 1 ∧ (1 : Int) ≤ 3 - 1 ∧ (1 : Int) ≤ 2 ∧ (2 : Int) ≤ 3 - 1 :=
  ⟨Nat.prime_three, by decide⟩

/-- A residue (2 = 3² mod 7), a non-residue (3) and a nonzero multiple (7) of 7. -/
theorem test_witness_TsqrtDecidesOnOddPrimes :
    Nat.Prime (7 : Int).toNat ∧ (7 : Int) ≠ 2 ∧ ((2 : Int) % 7 ≠ 0 ∧ ∃ x : Int, x * x % 7 = 2 % 7) ∧
    (¬ ((7 : Int) % 7 ≠ 0 ∧ ∃ x : Int, x * x % 7 = 7 % 7)) ∧
    ¬ ((3 : Int) % 7 ≠ 0 ∧ ∃ x : Int, x * x % 7 = 3 % 7) := by
  refine ⟨Nat.prime_seven, by decide, ⟨by decide, 3, by decide⟩, by simp, ?_⟩
  rintro ⟨-, x, hx⟩
  rw [Int.mul_emod] at hx
  have h0 := Int.emod_nonneg x (b := 7) (by decide)
  have h7 := Int.emod_lt_of_pos x (b := 7) (by decide)
  interval_cases x % 7 <;> simp at hx

/-- `n = 0`, and at `p = 1` no other; `n = −5` at `p = 7`. -/
theorem test_witness_TsqrtReducesItsOperand :
    ((1 : Int) ≤ 1 ∧ ((0 : Int) = 0 ∨ (0 : Int) % 1 ≠ 0)) ∧ (1 : Int) ≤ 7 ∧ ((-5 : Int) = 0 ∨ (-5 : Int) % 7 ≠ 0) := by
  decide

/-- `p = 1`, `p = 2` and `p = 7`, with `k = 1` and `k = −1`. -/
theorem test_witness_TsqrtTakesOnlyLiteralZeroAsZero :
    ((0 : Int) ≤ 0) ∧ ((1 : Int) ≠ 0 ∧ (1 : Int) ≤ 1 ∧ (1 : Int) ≠ 2) ∧ ((-1 : Int) ≠ 0 ∧ (1 : Int) ≤ 2 ∧ (2 : Int) = 2) := by
  decide

theorem test_witness_TsqrtOnDegenerateModuli : (-1 : Int) ≠ 0 ∧ (2 : Int) ≠ 0 := by decide

/-- A scan that finds and one that does not (42_tonelli_shanks.md R105, R106). -/
theorem test_witness_WitnessScanFindsTheSmallest :
    witness 41 (41 : Int).toNat 2 = some 3 ∧ witness 9 (9 : Int).toNat 2 = none := by decide +kernel

theorem test_witness_ModpowReducesAndIsRepeatedSquaring : (1 : Int) ≤ 1 ∧ (1 : Int) ≤ 7 := by decide

/-- TS_VALIDATE at `p = −1` and 0; TS_ZERO at `n = 0` and 1; TS_LEGENDRE at `p = 0`, 1, and 7 with a non-residue and a
residue. -/
theorem test_witness_ValidationAndResidueStates :
    ∀ s ∈ [runState .tsValidate 5 (-1), runState .tsValidate 5 0, runState .tsZero 0 7, runState .tsZero 1 7,
      runState .tsLegendre 3 0, runState .tsLegendre 1 1, runState .tsLegendre 3 7, runState .tsLegendre 2 7], Inv s := by
  intro s h
  refine inv_of_ok ?_
  revert s
  decide +kernel

/-- T2: an even ODD; T1 and T2: an odd ODD with EXPONENT 1 and 2, and `p = 2` with EXPONENT 0; T1: TS_FAST. -/
theorem test_witness_DecompositionAndFastStates :
    ∀ s ∈ [runDecomposed .tsDecomp 10 13 12 0 0, runDecomposed .tsDecomp 4 7 3 1 0, runDecomposed .tsDecomp 10 13 3 2 0,
      runDecomposed .tsDecomp 1 2 1 0 0, runDecomposed .tsFast 4 7 3 1 0], Inv s := by
  intro s h
  refine inv_of_ok ?_
  revert s
  decide +kernel

/-- T6: the candidate at `p` and just below it; T3: a witness, on an odd prime; T2: TS_INIT. -/
theorem test_witness_WitnessAndInitStates :
    ∀ s ∈ [runDecomposed .tsWscan 1 9 1 3 9, runDecomposed .tsWscan 1 9 1 3 8, runDecomposed .tsWscan 2 17 1 4 3,
      runDecomposed .tsInit 10 13 3 2 2], Inv s := by
  intro s h
  refine inv_of_ok ?_
  revert s
  decide +kernel

/-- T2: `t ≠ 1` and `t = 1`, a hit with `I < M`; T3: a miss; T5: `I = M`. -/
theorem test_witness_LoopAndScanStates :
    ∀ s ∈ [runLoop .tsLoop 10 13 3 2 2 8 9 12 2, runLoop .tsLoop 10 13 3 2 2 12 7 1 1,
      { runLoop .tsIscan 10 13 3 2 2 8 9 12 2 with s := enc 1 1, i := 1#32 },
      { runLoop .tsIscan 2 17 1 4 3 3 2 2 4 with s := enc 1 4, i := 1#32 },
      { runLoop .tsIscan 16 85 21 2 13 84 38 69 1 with s := enc 1 1, i := 1#32 }], Inv s ∧ LoopInv s := by
  intro s h
  refine ⟨inv_of_ok ?_, loop_of_ok ?_⟩ <;> revert s <;> decide +kernel

/-- T3: TS_BCOMP and TS_UPDATE; T4: TS_CANON. -/
theorem test_witness_UpdateAndCanonStates :
    ∀ s ∈ [{ runLoop .tsBcomp 2 17 1 4 3 3 2 2 4 with s := enc 1 1, i := 3#32 },
      { runLoop .tsUpdate 2 17 1 4 3 3 2 2 4 with s := enc 1 1, i := 3#32, b := enc 1 3 },
      runLoop .tsCanon 5 41 5 3 3 40 28 1 1], Inv s := by
  intro s h
  refine inv_of_ok ?_
  revert s
  decide +kernel

/-- Each error's state answers that error (TsqrtErrorsByState). -/
theorem test_witness_TsqrtErrorsByState :
    ∀ se ∈ [(runState .tsValidate 5 (-1), ErrCode.value), (runState .tsLegendre 3 0, .modulusZero),
      (runDecomposed .tsWscan 1 9 1 3 9, .witnessNotFound),
      ({ runLoop .tsIscan 16 85 21 2 13 84 38 69 1 with s := enc 1 1, i := 1#32 }, .noConvergence)],
      Inv se.1 ∧ LoopInv se.1 ∧ se.1.busy = true ∧ se.1.lastop = 3#4 ∧
        (nextOf (engineTurn se.1)).map (·.err) = some se.2 := by
  intro se h
  refine ⟨inv_of_ok ?_, loop_of_ok ?_, ?_⟩ <;> revert se <;> decide +kernel

theorem test_witness_CommandWordFrame :
    (exec .modpow (runState .tsValidate 2 17) = .next (overrunCmd (runState .tsValidate 2 17))) ∧
    exec .tsqrt (idleState 1 2 17 0) = .next (acceptLegal 3#4 .tsValidate (idleState 1 2 17 0)) := ⟨rfl, rfl⟩

/-- A state of each rule, each with a next state (EngineStepFrame, EngineStepIgnoresTheHost). -/
theorem test_witness_EngineStepFrame :
    ∀ s ∈ [runState .mpExec 3 7, runState .lgExec 2 7, runState .tsValidate 2 7, runState .tsZero 2 7,
      runState .tsLegendre 2 7, runDecomposed .tsDecomp 10 13 12 0 0, runDecomposed .tsFast 4 7 3 1 0,
      runDecomposed .tsWscan 2 17 1 4 2, runDecomposed .tsInit 10 13 3 2 2, runLoop .tsLoop 10 13 3 2 2 8 9 12 2,
      { runLoop .tsIscan 10 13 3 2 2 8 9 12 2 with s := enc 1 1, i := 1#32 },
      { runLoop .tsBcomp 10 13 3 2 2 8 9 12 2 with s := enc 1 1, i := 1#32 },
      { runLoop .tsUpdate 10 13 3 2 2 8 9 12 2 with s := enc 1 1, i := 1#32, b := enc 1 8 },
      runLoop .tsCanon 10 13 3 2 2 12 7 1 1], (nextOf (engineStep s)).isSome = true := by
  decide +kernel

/-- Steps that change an operand register, by a write and by reset (OperandsChangeOnlyByHostWriteOrReset). -/
theorem test_witness_OperandsChangeOnlyByHostWriteOrReset :
    (nextOf (step { State.reset with inputs := [.write 0x300#12 4 5#32] })).map (fun t => wideReg t .ope) = some [5#32] ∧
    (nextOf (step { idleState 1 5 7 0 with inputs := [.reset] })).map (fun t => wideReg t .opa) = some [0#32] := by
  decide +kernel

/-- Steps that change RESULT (a completion, an illegal word, reset) and the latches (an accept, reset), that set NOROOT, that clear OVERRUN,
that change LASTOP (ResultAndLatchWriters, FlagWriters). -/
theorem test_witness_ResultAndLatchWriters :
    (nextOf (step (runState .mpExec 3 7))).map (fun t => uval t.result) = some 1 ∧
    (nextOf (step { idleState 1 2 7 0 with result := enc 1 6, inputs := [.write offCmd 4 0x13#32] })).map
      (fun t => uval t.result) = some 0 ∧
    (nextOf (step { idleState 1 2 7 0 with result := enc 1 6, inputs := [.reset] })).map (fun t => uval t.result) =
      some 0 ∧
    (nextOf (step { idleState 1 2 7 0 with inputs := [.write offCmd 4 3#32] })).map (fun t => (t.ln, t.lastop)) =
      some ([2#32], 3#4) ∧
    (nextOf (step { runState .tsZero 2 7 with inputs := [.reset] })).map (fun t => (t.ln, t.lastop)) = some ([0#32], 0#4) := by
  decide +kernel

theorem test_witness_FlagWriters :
    (nextOf (step (runState .tsLegendre 3 7))).map (·.noroot) = some true ∧
    (nextOf (step { idleState 1 2 7 0 with noroot := true, inputs := [.write offCmd 4 1#32] })).map (·.noroot) =
      some false ∧
    (nextOf (step { idleState 1 2 7 0 with noroot := true, inputs := [.reset] })).map (·.noroot) = some false ∧
    (nextOf (step { runState .tsZero 3 7 with inputs := [.write offCmd 4 0#32] })).map (·.overrun) = some true ∧
    (nextOf (step { idleState 1 2 7 0 with overrun := true, inputs := [.write offCmd 4 0#32] })).map (·.overrun) =
      some false ∧
    (nextOf (step { runState .tsZero 3 7 with overrun := true, inputs := [.reset] })).map (·.overrun) = some false := by
  decide +kernel

/-- BUSY rises at an accept, and falls at a completion and at reset. -/
theorem test_witness_BusyRisesAtAcceptAndFallsAtCompletion :
    (nextOf (step { idleState 1 2 7 0 with inputs := [.write offCmd 4 1#32] })).map (·.busy) = some true ∧
    (nextOf (step (runState .tsZero 0 7))).map (·.busy) = some false ∧
    (nextOf (step { runState .tsZero 0 7 with inputs := [.engine] })).map (·.busy) = some false ∧
    (nextOf (step { runState .tsZero 2 7 with inputs := [.reset] })).map (·.busy) = some false := by
  decide +kernel

/-- The ends of the reserved ranges with K = 1 and K = 64 (OffsetDecoding, ReadsHaveNoSideEffect). -/
theorem test_witness_OffsetDecoding :
    [0x01C#12, 0x0FC#12, 0x104#12, 0xFFC#12].map (target 1) = List.replicate 4 .reserved ∧
    [0x01C#12, 0x0FC#12].map (target 64) = List.replicate 2 .reserved ∧ target 64 0x1FC#12 = .wide .opa 63 ∧
    target 1 0x018#12 = .exponent ∧ target 1 0x100#12 = .wide .opa 0 := by
  decide +kernel

/-- Reads of each kind of word, the last of the window among them. -/
theorem test_witness_ReadsHaveNoSideEffect :
    ([0x000#12, 0x004#12, 0x008#12, 0x00C#12, 0x010#12, 0x014#12, 0x018#12, 0x01C#12, 0x0FC#12, 0x100#12, 0xFFC#12].map
      fun off => off.toNat % 4) = List.replicate 11 0 ∧
    ∀ off : Offset, ({ State.reset with inputs := [.read off 4] } : State).inputs = .read off 4 :: [] :=
  ⟨by decide +kernel, fun _ => rfl⟩

/-- A write to an operand word, a read-only word and a reserved word. -/
theorem test_witness_WritesChangeOnlyTheirOperandWord :
    (∀ off v, Inv { State.reset with inputs := [.write off 4 v] }) ∧
    ([0x100#12, 0x400#12, 0x104#12, 0x000#12].map fun off => (off.toNat % 4, off == 0x004#12)) =
      List.replicate 4 (0, false) :=
  ⟨fun _ _ => inv_of_ok (show invOk State.reset = true by decide +kernel), by decide +kernel⟩

/-- Accesses that are answered and that are not, next to each other (OnlyAlignedWordAccessesAreAnswered). -/
theorem test_witness_OnlyAlignedWordAccessesAreAnswered :
    ¬ (3 = 4 ∧ (0x004#12).toNat % 4 = 0) ∧ ¬ (5 = 4 ∧ (0x004#12).toNat % 4 = 0) ∧
    ¬ (4 = 4 ∧ (0x003#12).toNat % 4 = 0) ∧ (4 = 4 ∧ (0x004#12).toNat % 4 = 0) := by decide

/-- The largest and smallest values of each reading at K = 1. -/
theorem test_witness_OperandStoresReadBack :
    fitsSigned 1 (2 ^ 31 - 1) = true ∧ fitsSigned 1 (-2 ^ 31) = true ∧ fitsUnsigned 1 (2 ^ 32 - 1) = true ∧
    fitsUnsigned 1 0 = true ∧ (zeroWide 1).length = 1 := by decide

theorem test_witness_ResetClearsEveryRegister :
    ∃ s : State, Inv s ∧ s.busy = true ∧ s.inputs = .reset :: [] :=
  ⟨{ runState .tsZero 2 17 with inputs := [.reset] }, inv_of_ok (by decide +kernel), rfl, rfl⟩

/-- Both ends of K (CommandsRightAfterReset, InvariantsHoldAfterReset). -/
theorem test_witness_CommandsRightAfterReset : 1 ≤ 1 ∧ 1 ≤ Config.maxK ∧ 1 ≤ 64 ∧ 64 ≤ Config.maxK := by decide

/-- A step inside the loop, with both invariants (StepKeepsTheMachineInvariant, StepKeepsTheLoopInvariant,
TheEngineNeverGetsStuck). -/
theorem test_witness_StepKeepsTheLoopInvariant :
    ∃ s : State, Inv s ∧ LoopInv s ∧ s.busy = true ∧ (nextOf (step s)).isSome = true :=
  ⟨{ runLoop .tsIscan 2 17 1 4 3 3 2 2 4 with s := enc 1 4, i := 1#32 }, inv_of_ok (by decide +kernel),
    loop_of_ok (by decide +kernel), rfl, by decide +kernel⟩

/-- T3: a scan on an odd prime modulus, and TS_UPDATE (StepKeepsThePrimeLoopInvariant, and the prime clauses of
LoopAndScanStates). -/
theorem test_witness_StepKeepsThePrimeLoopInvariant :
    ∀ s ∈ [{ runLoop .tsIscan 2 17 1 4 3 3 2 2 4 with s := enc 1 1, i := 3#32 },
      { runLoop .tsUpdate 2 17 1 4 3 3 2 2 4 with s := enc 1 1, i := 3#32, b := enc 1 3 }],
      Inv s ∧ LoopInv s ∧ PrimeLoopInv s ∧ opP s = 17 ∧ (nextOf (step s)).isSome = true := by
  intro s h
  refine ⟨inv_of_ok ?_, loop_of_ok ?_, prime_of_ok ?_, ?_⟩ <;> revert s <;> decide +kernel

/-- A refused step (TheEngineNeverGetsStuck). -/
theorem test_witness_TheEngineNeverGetsStuck :
    step { State.reset with inputs := [.read 0x002#12 4] } = .refused (.busError 0x002#12 4) := rfl

/-- Two states that differ in what the host may write alone, busy and idle (EngineStepIgnoresTheHost). -/
theorem test_witness_EngineStepIgnoresTheHost :
    coreView (runState .tsZero 2 17) = coreView { runState .tsZero 2 17 with opa := enc 1 99, overrun := true } ∧
    (nextOf (engineTurn (runState .tsZero 2 17))).isSome = true ∧ (idleState 1 2 17 0).busy = false := by
  decide +kernel

/-- Quiet accesses through the completion, and CMD writes while the command runs (HostAccessesCannotDisturbACommand). -/
theorem test_witness_HostAccessesCannotDisturbACommand :
    ∃ s s' : State, Inv s ∧ (∀ x ∈ s.inputs, quiet x = true) ∧ s.inputs ≠ [] ∧ Inv s' ∧
      (∀ x ∈ s'.inputs, x.wellFormed = true ∧ x ≠ .reset) ∧ (.write offCmd 4 1#32) ∈ s'.inputs ∧
      ∃ u, engineRun (engineTurns s'.inputs) s' = .next u ∧ u.busy = true :=
  ⟨{ runState .tsZero 0 17 with inputs := [.write 0x100#12 4 9#32, .engine, .read 0x008#12 4, .engine] },
    { runState .tsValidate 2 17 with inputs := [.write offCmd 4 1#32, .engine, .write 0x100#12 4 9#32] },
    inv_of_ok (by decide +kernel), by decide, by decide, inv_of_ok (by decide +kernel), by decide, by decide,
    { runState .tsZero 2 17 with inputs := [.write offCmd 4 1#32, .engine, .write 0x100#12 4 9#32] },
    rfl, rfl⟩

theorem test_witness_TheEngineMovesWhenNothingElseDoes :
    (State.reset.inputs = [] ∧ State.reset.stalled = false) ∧
    ({ State.reset with stalled := true } : State).stalled = true ∧ ({ State.reset with inputs := [.engine] } : State).inputs = .engine :: [] :=
  ⟨⟨rfl, rfl⟩, rfl, rfl⟩

/-- A host at a `wait`, with this machine. -/
def waiting (dev : State) : System := ⟨⟨waitStmts 0 1 ++ [.halt], 0, [], false⟩, dev⟩

/-- The host and the engine by turns. -/
def byTurns (n : Nat) : Turn := if n % 2 = 0 then .host else .engine

theorem waiting_atWait (dev : State) : AtWait (waiting dev) 0 1 := ⟨rfl, rfl, rfl⟩

/-- A fair schedule without reset, on a host that waits for a running command (FairRunsCompleteEveryCommand,
FairWaitsEnd), and an idle engine. -/
theorem test_witness_FairWaitsEnd :
    Inv (waiting (runState .tsZero 0 7)).dev ∧ (waiting (runState .tsZero 0 7)).dev.busy = true ∧
    programWellFormed (waiting (runState .tsZero 0 7)).host.prog = true ∧ AtWait (waiting (runState .tsZero 0 7)) 0 1 ∧
    (∀ n, byTurns n ≠ .reset) ∧ WeaklyFair byTurns (waiting (runState .tsZero 0 7)) ∧ HostMoves byTurns ∧
    Inv (waiting State.reset).dev ∧ (waiting State.reset).dev.busy = false := by
  refine ⟨inv_of_ok (by decide +kernel), rfl, by decide +kernel, waiting_atWait _, fun n => ?_,
    fun n _ _ _ => ⟨2 * n + 1, by omega, ?_⟩, fun n => ⟨2 * n, by omega, ?_⟩, inv_of_ok (by decide +kernel), rfl⟩
  · unfold byTurns
    split <;> decide
  · simp [byTurns]
  · simp [byTurns]

/-- The machine's own run: a busy engine with nothing listed, on a fair and on a stalled schedule
(FairRunsCompleteEveryCommand, UnfairRunsHang). -/
theorem test_witness_UnfairRunsHang :
    (runState .tsZero 0 7).inputs = [] ∧ (runState .tsZero 0 7).stalled = false ∧
    ({ runState .tsZero 0 7 with stalled := true } : State).stalled = true ∧
    AtWait (waiting (runState .tsZero 0 7)) 0 1 := ⟨rfl, rfl, rfl, waiting_atWait _⟩

/-- Both arms of the driver's statement at K = 1 (DriverKeepsTheOutcome). -/
theorem test_witness_DriverKeepsTheOutcome :
    driveTsqrtInt 1 5 (2 ^ 31 - 1) = .issue .tsqrt 5 (2 ^ 31 - 1) 0 ∧ driveTsqrtInt 1 5 (2 ^ 31) = .report .width ∧
    driveModpowInt 1 2 (2 ^ 32 - 1) 7 = .issue .modpow 2 7 (2 ^ 32 - 1) ∧
    driveModpowInt 1 2 (2 ^ 32) 7 = .report .width ∧ driveLegendreInt 1 2 (-2 ^ 31 - 1) = .issue .legendre 2 (-1) 0 := by
  decide +kernel

/-- The ends of the operands' ranges at K = 1; OPE is written for MODPOW alone (DriverIssuesTheExpansions). -/
theorem test_witness_DriverIssuesTheExpansions :
    fitsSigned 1 (-2 ^ 31) = true ∧ fitsSigned 1 (2 ^ 31 - 1) = true ∧ fitsUnsigned 1 ((2 ^ 32 - 1 : Nat) : Int) = true ∧
    driverStmts 1 (.issue .tsqrt 10 13 0) = [.sw 0x100#12 10, .sw 0x200#12 13, .command .tsqrt] ∧
    driverStmts 1 (.issue .modpow 3 7 5) = [.sw 0x100#12 3, .sw 0x200#12 7, .sw 0x300#12 5, .command .modpow] := by
  decide +kernel

/-- `lw` and a taken `bnz` answer next states (HostStatements). -/
theorem test_witness_HostStatements :
    (∃ z, hostStmt (.lw 0 0x008#12) ⟨⟨[], 0, [], false⟩, State.reset⟩ = .next z) ∧
    ∃ z, hostStmt (.bnz 0 1#32 4) ⟨⟨[.label 4], 0, [1], false⟩, State.reset⟩ = .next z := ⟨⟨_, rfl⟩, ⟨_, rfl⟩⟩

end Sys2Proof.Tests
end

/-! ## Encoded operands: the K stores of a wide register, and its readings -/

namespace Sys2Proof.Readings

open Sys2Proof.Machine Sys2Proof.Laws

/-- One store moves the border between the words already written and the old ones by one word. -/
theorem setWord_take_append_drop {v w : Wide} {j : Nat} (hl : v.length = w.length) (hj : j < w.length) :
    setWord (w.take j ++ v.drop j) j (getWord w j) = w.take (j + 1) ++ v.drop (j + 1) := by
  have hv : v.drop j = v[j] :: v.drop (j + 1) := List.drop_eq_getElem_cons (hl ▸ hj)
  have ht : (w.take j).length = j := List.length_take_of_le hj.le
  have hw : getWord w j = w[j] := by simp [getWord, hj]
  rw [setWord, List.set_append_right _ _ ht.le, ht, Nat.sub_self, hv, List.set_cons_zero, hw,
    ← List.take_concat_get' w j hj, List.append_assoc, List.singleton_append]

/-- After the first `j` stores of `w`'s words, in the order of R63's expansion, the register holds the first `j` words of
`w` and its own old words above them. -/
theorem foldl_setWord_range {v w : Wide} {j : Nat} (hl : v.length = w.length) (hj : j ≤ w.length) :
    (List.range j).foldl (fun r i => setWord r i (getWord w i)) v = w.take j ++ v.drop j := by
  induction j with
  | zero => simp
  | succ j ih => rw [List.range_succ, List.foldl_append, ih (by omega)]; exact setWord_take_append_drop hl hj

/-- A signed value that fits is read back (00_scope.md R9): a negative one is encoded as `x + 2^W`, which has the top bit
set. -/
theorem sval_enc_of_fits {k : Nat} {x : Int} (hk : 1 ≤ k) (hx : fitsSigned k x = true) : sval k (enc k x) = x := by
  obtain ⟨d, hd⟩ : ∃ d, bitWidth k = d + 1 := ⟨bitWidth k - 1, by unfold bitWidth; omega⟩
  have hpos : (0 : Int) < 2 ^ d := by positivity
  have hdouble : (2 : Int) ^ (d + 1) = 2 * 2 ^ d := by ring
  have hu := uval_enc k x
  have hcast : uval (enc k x) < 2 ^ d ↔ (uval (enc k x) : Int) < 2 ^ d := by norm_cast
  simp only [fitsSigned, decide_eq_true_eq, hd, Nat.add_sub_cancel] at hx
  simp only [sval, hd, Nat.add_sub_cancel, hcast]
  rw [hd, hdouble] at hu
  rcases le_or_gt 0 x with h0 | h0
  · have hmod : x % (2 * 2 ^ d : Int) = x := Int.emod_eq_of_lt h0 (by omega)
    rw [hu, hmod, if_pos hx.2]
  · have hmod : x % (2 * 2 ^ d : Int) = x + 2 * 2 ^ d := by
      rw [← Int.add_emod_right, Int.emod_eq_of_lt (by omega) (by omega)]
    rw [hu, hmod, if_neg (by omega), hdouble, Int.add_sub_cancel]

/-- An unsigned value that fits is read back (00_scope.md R9). -/
theorem uval_enc_of_fits {k : Nat} {x : Int} (hx : fitsUnsigned k x = true) : (uval (enc k x) : Int) = x := by
  obtain ⟨h0, h1⟩ := of_decide_eq_true hx
  exact uval_enc_of_lt h0 h1

/-- Settles O38: the stores replace the register's words one by one, and each reading inverts `enc` on its range. -/
theorem operandStoresReadBack : Obligations.OperandStoresReadBack := by
  intro k v x hk hv
  refine ⟨?_, sval_enc_of_fits hk, uval_enc_of_fits⟩
  have hl : v.length = (enc k x).length := by simp [hv]
  calc (List.range k).foldl (fun r j => setWord r j (getWord (enc k x) j)) v
      = (enc k x).take k ++ v.drop k := foldl_setWord_range hl (by simp)
    _ = enc k x := by simp [hv, List.take_of_length_le]

end Sys2Proof.Readings

/-! ## The modpow core in the field `ZMod q` -/

namespace Sys2Proof.Residues

open Sys2Proof.Machine Sys2Proof.Laws

section Casts

variable {q : Nat}

@[simp] theorem cast_modpow (b : Int) (e : Nat) : ((modpow b e q : Int) : ZMod q) = (b : ZMod q) ^ e := by
  rw [modpow_eq_pow_emod, ZMod.intCast_mod, Int.cast_pow]

@[simp] theorem cast_modmul (x y : Int) : ((modmul x y q : Int) : ZMod q) = (x : ZMod q) * y := by
  rw [modmul, ZMod.intCast_mod, Int.cast_mul]

/-- The state rules' test `x ≡ 1 (mod p)`. -/
theorem sub_one_emod_eq_zero_iff (x : Int) : (x - 1) % (q : Int) = 0 ↔ (x : ZMod q) = 1 := by
  rw [← Int.dvd_iff_emod_eq_zero, ← ZMod.intCast_zmod_eq_zero_iff_dvd, Int.cast_sub, Int.cast_one, sub_eq_zero]

theorem emod_ne_zero_iff (x : Int) : x % (q : Int) ≠ 0 ↔ (x : ZMod q) ≠ 0 := by
  rw [Ne, Ne, ← Int.dvd_iff_emod_eq_zero, ← ZMod.intCast_zmod_eq_zero_iff_dvd]

theorem isSquare_cast_iff (n : Int) : IsSquare (n : ZMod q) ↔ ∃ x : Int, x * x % q = n % q := by
  constructor
  · rintro ⟨y, hy⟩
    obtain ⟨x, rfl⟩ := ZMod.intCast_surjective y
    exact ⟨x, (ZMod.intCast_eq_intCast_iff' _ _ q).mp (by rw [hy, Int.cast_mul])⟩
  · rintro ⟨x, hx⟩
    exact ⟨x, by rw [← Int.cast_mul, (ZMod.intCast_eq_intCast_iff' _ _ q).mpr hx]⟩

/-- Reduced values are equal when their classes are. -/
theorem eq_iff_cast_eq {x y : Int} (hx0 : 0 ≤ x) (hx : x < q) (hy0 : 0 ≤ y) (hy : y < q) :
    x = y ↔ (x : ZMod q) = y := by
  rw [ZMod.intCast_eq_intCast_iff', Int.emod_eq_of_lt hx0 hx, Int.emod_eq_of_lt hy0 hy]

end Casts

section OddPrime

variable {q : Nat} [hq : Fact q.Prime] (h2 : q ≠ 2)
include h2

theorem two_lt : 2 < q := lt_of_le_of_ne hq.out.two_le h2.symm

theorem mod_two_eq_one : q % 2 = 1 := hq.out.eq_two_or_odd.resolve_left h2

/-- `legendre(a, p)` is Euler's power (41_legendre.md R77). -/
theorem cast_legendre (a : Int) : ((legendre a q : Int) : ZMod q) = (a : ZMod q) ^ (q / 2) := by
  have hodd := mod_two_eq_one h2
  have he : (((q : Int) - 1) / 2).toNat = q / 2 := by omega
  rw [legendre, cast_modpow, he]

theorem legendre_eq_iff (a : Int) {v : Int} (h0 : 0 ≤ v) (hv : v < q) :
    legendre a q = v ↔ (a : ZMod q) ^ (q / 2) = v := by
  have hpos : (0 : Int) < q := by exact_mod_cast hq.out.pos
  rw [← cast_legendre h2]
  exact eq_iff_cast_eq (modpow_nonneg _ _ hpos) (modpow_lt _ _ hpos) h0 hv

theorem legendre_eq_one_iff (a : Int) : legendre a q = 1 ↔ (a : ZMod q) ^ (q / 2) = 1 := by
  have hlt := two_lt h2
  rw [legendre_eq_iff h2 a (by omega) (by omega), Int.cast_one]

theorem legendre_eq_sub_one_iff (a : Int) : legendre a q = q - 1 ↔ (a : ZMod q) ^ (q / 2) = -1 := by
  have hlt := two_lt h2
  rw [legendre_eq_iff h2 a (by omega) (by omega)]
  simp

/-- Euler's criterion for the model's Legendre value (41_legendre.md R79): it is 1 exactly on nonzero squares. -/
theorem legendre_eq_one_iff_isSquare (a : Int) :
    legendre a q = 1 ↔ (a : ZMod q) ≠ 0 ∧ IsSquare (a : ZMod q) := by
  rw [legendre_eq_one_iff h2]
  have hlt := two_lt h2
  constructor
  · intro h
    have ha : (a : ZMod q) ≠ 0 := by
      intro h0
      rw [h0, zero_pow (by omega)] at h
      exact zero_ne_one h
    exact ⟨ha, (ZMod.euler_criterion q ha).mpr h⟩
  · rintro ⟨ha, hsq⟩
    exact (ZMod.euler_criterion q ha).mp hsq

/-- An odd prime has a non-residue, and a non-residue in `[2, p)` has Legendre value `p − 1` (41_legendre.md R79). -/
theorem exists_legendre_eq_sub_one : ∃ y : Int, 2 ≤ y ∧ y < q ∧ legendre y q = q - 1 := by
  obtain ⟨a, ha⟩ := FiniteField.exists_nonsquare (F := ZMod q) (by rwa [ZMod.ringChar_zmod_n])
  have ha0 : a ≠ 0 := fun h => ha (h ▸ IsSquare.zero)
  have ha1 : a ≠ 1 := fun h => ha (h ▸ IsSquare.one)
  have hval : ((a.val : Int) : ZMod q) = a := by simp
  have hpow : a ^ (q / 2) = -1 :=
    (ZMod.pow_div_two_eq_neg_one_or_one q ha0).resolve_left fun h => ha ((ZMod.euler_criterion q ha0).mpr h)
  refine ⟨a.val, ?_, by exact_mod_cast a.val_lt, (legendre_eq_sub_one_iff h2 _).mpr (by rw [hval, hpow])⟩
  have hv0 : a.val ≠ 0 := by rwa [Ne, ZMod.val_eq_zero]
  have hv1 : a.val ≠ 1 := fun h => ha1 (by rw [← hval, h]; simp)
  omega

end OddPrime

end Sys2Proof.Residues

/-! ## The loops of TSQRT's whole-command function, each by the recursion of its definition -/

namespace Sys2Proof.WholeLoops

open Sys2Proof.Machine Sys2Proof.Laws Sys2Proof.Residues

/-- Halving keeps the product of the odd part and the power of two (42_tonelli_shanks.md R88). -/
theorem halve_mul_two_pow (fuel o ex : Nat) : (halve fuel o ex).1 * 2 ^ (halve fuel o ex).2 = o * 2 ^ ex := by
  induction fuel generalizing o ex with
  | zero => rfl
  | succ fuel ih =>
    unfold halve
    split
    · rename_i heven
      rw [ih, pow_succ', ← mul_assoc, Nat.div_mul_cancel (Nat.dvd_of_mod_eq_zero heven)]
    · rfl

/-- With fuel for every bit, halving ends at an odd number. -/
theorem halve_odd {fuel o : Nat} (ex : Nat) (h0 : o ≠ 0) (hlt : o < 2 ^ fuel) : (halve fuel o ex).1 % 2 = 1 := by
  induction fuel generalizing o ex with
  | zero => exact absurd (Nat.lt_one_iff.mp hlt) h0
  | succ fuel ih =>
    rw [pow_succ] at hlt
    unfold halve
    split
    · exact ih (ex + 1) (by omega) (by omega)
    · omega

/-- The scan's answer is the smallest candidate from its start with Legendre value `p − 1` (R90). -/
theorem witness_some {p w : Int} {fuel : Nat} {z : Int} (h : witness p fuel z = some w) :
    z ≤ w ∧ w < p ∧ legendre w p = p - 1 ∧ ∀ y, z ≤ y → y < w → legendre y p ≠ p - 1 := by
  induction fuel generalizing z with
  | zero => simp [witness] at h
  | succ fuel ih =>
    unfold witness at h
    split at h
    · cases h
    · split at h
      · rename_i hz hleg
        cases h
        exact ⟨le_rfl, by omega, hleg, fun y hy hyw => absurd hy (by omega)⟩
      · rename_i hleg
        obtain ⟨hzw, hwp, hw, hmin⟩ := ih h
        refine ⟨by omega, hwp, hw, fun y hy hyw => ?_⟩
        rcases eq_or_lt_of_le hy with rfl | hlt
        · exact hleg
        · exact hmin y (by omega) hyw

/-- With fuel for every candidate, the scan fails only where no candidate qualifies. -/
theorem witness_none {p : Int} {fuel : Nat} {z : Int} (h : witness p fuel z = none) (hf : p ≤ z + fuel) :
    ∀ y, z ≤ y → y < p → legendre y p ≠ p - 1 := by
  induction fuel generalizing z with
  | zero => intro y hy hyp; omega
  | succ fuel ih =>
    intro y hy hyp
    unfold witness at h
    split at h
    · omega
    · split at h
      · cases h
      · rename_i hleg
        rcases eq_or_lt_of_le hy with rfl | hlt
        · exact hleg
        · exact ih h (by omega) y (by omega) hyp

/-- The inner scan's answer is the first `j` from its start with `t^(2^j) = 1` (R94). -/
theorem innerScan_some {q m fuel i j : Nat} {s : Int} {t : ZMod q} (hs : (s : ZMod q) = t ^ 2 ^ i)
    (h : innerScan q m fuel s i = some j) :
    i ≤ j ∧ j < m ∧ t ^ 2 ^ j = 1 ∧ ∀ l, i ≤ l → l < j → t ^ 2 ^ l ≠ 1 := by
  induction fuel generalizing s i with
  | zero => simp [innerScan] at h
  | succ fuel ih =>
    simp only [innerScan, sub_one_emod_eq_zero_iff, hs] at h
    split at h
    · cases h
    · split at h
      · rename_i hm hone
        cases h
        exact ⟨le_rfl, by omega, hone, fun l hl hli => absurd hl (by omega)⟩
      · rename_i hone
        obtain ⟨hij, hjm, hj, hmiss⟩ := ih (by rw [cast_modmul, hs, ← sq, ← pow_mul, ← pow_succ]) h
        refine ⟨by omega, hjm, hj, fun l hl hlj => ?_⟩
        rcases eq_or_lt_of_le hl with rfl | hlt
        · exact hone
        · exact hmiss l hlt hlj

/-- With fuel for every `i < m`, the inner scan fails only where no such power is 1. -/
theorem innerScan_none {q m fuel i : Nat} {s : Int} {t : ZMod q} (hs : (s : ZMod q) = t ^ 2 ^ i)
    (hf : m ≤ i + fuel) (h : innerScan q m fuel s i = none) : ∀ l, i ≤ l → l < m → t ^ 2 ^ l ≠ 1 := by
  induction fuel generalizing s i with
  | zero => intro l hl hlm; omega
  | succ fuel ih =>
    intro l hl hlm
    simp only [innerScan, sub_one_emod_eq_zero_iff, hs] at h
    split at h
    · omega
    · split at h
      · cases h
      · rename_i hone
        rcases eq_or_lt_of_le hl with rfl | hlt
        · exact hone
        · exact ih (by rw [cast_modmul, hs, ← sq, ← pow_mul, ← pow_succ]) (by omega) h l hlt hlm

section Prologue

variable {n p : Int} (hp : 0 < p) (hn : n ≠ 0)
include hp hn

/-- A Legendre value other than 1 answers NoRootSignal at once, for every positive modulus (R87). -/
theorem tsqrt_of_legendre_ne_one (hl : legendre n p ≠ 1) : tsqrt n p = .noroot := by
  simp [tsqrt, tsqrtRun, hp.not_gt, hn, hp.ne', hl]

/-- On a Legendre value of 1 the decomposition chooses the path (R88, R98). -/
theorem tsqrt_of_legendre_eq_one (hl : legendre n p = 1) {d : Nat × Nat}
    (hd : halve ((p - 1).toNat.log2 + 1) (p - 1).toNat 0 = d) :
    tsqrt n p =
      if d.2 = 1 then .ok (min (modpow n ((p + 1) / 4).toNat p) (p - modpow n ((p + 1) / 4).toNat p))
      else (generalPath n p d.1 d.2).1 := by
  simp only [tsqrt, tsqrtRun, hp.not_gt, hn, hp.ne', hl, hd, if_false, ne_eq, not_true_eq_false]
  split <;> rfl

end Prologue

end Sys2Proof.WholeLoops

/-! ## TSQRT on an odd prime -/

namespace Sys2Proof.OddPrimes

open Sys2Proof.Machine Sys2Proof.Laws Sys2Proof.Residues Sys2Proof.WholeLoops

/-- `r` is the smaller of the two square roots of `n` modulo `q` (42_tonelli_shanks.md R97). -/
structure IsSmallerRoot (q : Nat) (n r : Int) : Prop where
  nonneg : 0 ≤ r
  lt : r < q
  smaller : r ≤ q - r
  square : (r : ZMod q) ^ 2 = n

/-- TS_CANON's `min(root, p − root)` is the smaller root (R97). -/
theorem isSmallerRoot_min {q : Nat} {n x : Int} (h0 : 0 ≤ x) (hx : x < q) (hsq : (x : ZMod q) ^ 2 = n) :
    IsSmallerRoot q n (min x (q - x)) := by
  rcases min_cases x ((q : Int) - x) with ⟨hmin, hle⟩ | ⟨hmin, hlt⟩ <;> rw [hmin]
  · exact ⟨h0, hx, hle, hsq⟩
  · exact ⟨by omega, by omega, by omega, by simpa using hsq⟩

/-- What the outer loop keeps on an odd prime (42_tonelli_shanks.md R92), in the field of the modulus. -/
structure LoopFacts {F : Type} [Field F] (n root c t : F) (m : Nat) : Prop where
  square : root ^ 2 = n * t
  pos : 1 ≤ m
  orderT : t ^ 2 ^ (m - 1) = 1
  orderC : c ^ 2 ^ (m - 1) = -1

section Field

variable {F : Type} [Field F] {n root c t : F} {m i : Nat}

/-- TS_INIT establishes the loop's facts from Euler's power of `n` and of the witness `z` (R91). -/
theorem LoopFacts.init {z : F} {o : Nat} (hm : 1 ≤ m) (ho : o % 2 = 1) (hn : n ^ (o * 2 ^ (m - 1)) = 1)
    (hz : z ^ (o * 2 ^ (m - 1)) = -1) : LoopFacts n (n ^ ((o + 1) / 2)) (z ^ o) (n ^ o) m where
  square := by
    have he : (o + 1) / 2 * 2 = o + 1 := by omega
    rw [← pow_mul, he, pow_succ']
  pos := hm
  orderT := by rw [← pow_mul, hn]
  orderC := by rw [← pow_mul, hz]

/-- TS_UPDATE keeps the loop's facts, with the scan's `i` for `m` (R95, R96): `t^(2^(i−1))` is a square root of 1 other than
1, so it is −1, and `b²` has the same power −1. -/
theorem LoopFacts.update (h : LoopFacts n root c t m) (hi : 1 ≤ i) (him : i < m) (hit : t ^ 2 ^ i = 1)
    (hmiss : t ^ 2 ^ (i - 1) ≠ 1) :
    let b := c ^ 2 ^ (m - i - 1)
    LoopFacts n (root * b) (b * b) (t * (b * b)) i := by
  intro b
  have hc : (b * b) ^ 2 ^ (i - 1) = -1 := by
    have he : 2 ^ (m - i - 1) * (2 * 2 ^ (i - 1)) = 2 ^ (m - 1) := by
      rw [← pow_succ', ← pow_add]; congr 1; omega
    rw [← sq, ← pow_mul, ← pow_mul, he, h.orderC]
  have ht : t ^ 2 ^ (i - 1) = -1 := by
    have hsq : (t ^ 2 ^ (i - 1)) ^ 2 = 1 := by
      rw [← pow_mul, ← pow_succ, Nat.sub_add_cancel hi, hit]
    exact (sq_eq_one_iff.mp hsq).resolve_left hmiss
  exact
    { square := by rw [mul_pow, h.square]; ring
      pos := hi
      orderT := by rw [mul_pow, ht, hc]; ring
      orderC := hc }

end Field

section Modulus

variable {q : Nat} [hq : Fact q.Prime]

/-- The inner scan finds the order of `t` where the loop's facts hold and `t ≠ 1` (R94); it is never exhausted. -/
theorem innerScan_of_loopFacts {n root c : ZMod q} {t : Int} {m : Nat} (h : LoopFacts n root c (t : ZMod q) m)
    (ht : (t : ZMod q) ≠ 1) :
    ∃ i, innerScan q m m (modmul t t q) 1 = some i ∧ 1 ≤ i ∧ i < m ∧ (t : ZMod q) ^ 2 ^ i = 1 ∧
      (t : ZMod q) ^ 2 ^ (i - 1) ≠ 1 := by
  have hs : ((modmul t t q : Int) : ZMod q) = (t : ZMod q) ^ 2 ^ 1 := by rw [cast_modmul]; ring
  have hm : m ≠ 1 := fun hm => ht (by simpa [hm] using h.orderT)
  have hpos := h.pos
  cases hscan : innerScan q m m (modmul t t q) 1 with
  | none => exact absurd h.orderT (innerScan_none hs (by omega) hscan (m - 1) (by omega) (by omega))
  | some i =>
    obtain ⟨hi, him, hit, hmiss⟩ := innerScan_some hs hscan
    refine ⟨i, rfl, hi, him, hit, ?_⟩
    rcases eq_or_lt_of_le hi with rfl | hlt
    · simpa using ht
    · exact hmiss (i - 1) (by omega) (by omega)

/-- The outer loop ends with the smaller root of `n` where its facts hold (42_tonelli_shanks.md R99). -/
theorem outerLoop_of_loopFacts {n : Int} {fuel m : Nat} {root c t : Int}
    (h : LoopFacts (n : ZMod q) root c t m) (hf : m ≤ fuel) (h0 : 0 ≤ root) (hlt : root < q) :
    ∃ r, (outerLoop q fuel root c t m).1 = .ok r ∧ IsSmallerRoot q n r := by
  induction fuel generalizing root c t m with
  | zero => exact absurd h.pos (by omega)
  | succ fuel ih =>
    have hpos : (0 : Int) < q := by exact_mod_cast hq.out.pos
    by_cases ht : (t : ZMod q) = 1
    · have hone : (t - 1) % (q : Int) = 0 := (sub_one_emod_eq_zero_iff t).mpr ht
      refine ⟨min root (q - root), by simp [outerLoop, hone], isSmallerRoot_min h0 hlt ?_⟩
      rw [h.square, ht, mul_one]
    · have hone : ¬ (t - 1) % (q : Int) = 0 := fun h1 => ht ((sub_one_emod_eq_zero_iff t).mp h1)
      obtain ⟨i, hscan, hi, him, hit, hmiss⟩ := innerScan_of_loopFacts h ht
      simp only [outerLoop, hone, if_false, hscan]
      exact ih (by simpa using h.update hi him hit hmiss) (by omega) (modmul_nonneg _ _ hpos)
        (modmul_lt _ _ hpos)

/-- TS_FAST's power is a square root where `p = 2·odd + 1` with `odd` odd (42_tonelli_shanks.md R89). -/
theorem fast_square {n : Int} (h4 : q % 4 = 3) (hn : (n : ZMod q) ^ (q / 2) = 1) :
    ((modpow n (((q : Int) + 1) / 4).toNat q : Int) : ZMod q) ^ 2 = n := by
  have he : (((q : Int) + 1) / 4).toNat * 2 = q / 2 + 1 := by omega
  rw [cast_modpow, ← pow_mul, he, pow_succ, hn, one_mul]

/-- The general path ends with the smaller root of a residue (42_tonelli_shanks.md R98, R99). -/
theorem generalPath_of_residue {n : Int} {o ex : Nat} (h2 : q ≠ 2) (hn : (n : ZMod q) ^ (q / 2) = 1)
    (ho : o % 2 = 1) (hex : 1 ≤ ex) (hprod : o * 2 ^ (ex - 1) = q / 2) :
    ∃ r, (generalPath n q o ex).1 = .ok r ∧ IsSmallerRoot q n r := by
  have hpos : (0 : Int) < q := by exact_mod_cast hq.out.pos
  cases hw : witness (q : Int) (q : Int).toNat 2 with
  | none =>
    obtain ⟨y, hy2, hyq, hy⟩ := exists_legendre_eq_sub_one h2
    exact absurd hy (witness_none hw (by simp) y hy2 hyq)
  | some z =>
    obtain ⟨-, -, hz, -⟩ := witness_some hw
    have hz' : (z : ZMod q) ^ (q / 2) = -1 := (legendre_eq_sub_one_iff h2 z).mp hz
    simp only [generalPath, hw]
    exact outerLoop_of_loopFacts (by simpa using LoopFacts.init hex ho (hprod ▸ hn) (hprod ▸ hz')) (by omega)
      (modpow_nonneg _ _ hpos) (modpow_lt _ _ hpos)

/-- The decomposition of `p − 1` (42_tonelli_shanks.md R88), halved once. -/
theorem halve_sub_one (h2 : q ≠ 2) {d : Nat × Nat}
    (hd : halve (((q : Int) - 1).toNat.log2 + 1) ((q : Int) - 1).toNat 0 = d) :
    d.1 % 2 = 1 ∧ 1 ≤ d.2 ∧ d.1 * 2 ^ (d.2 - 1) = q / 2 := by
  have hlt := two_lt h2
  have hodd := mod_two_eq_one h2
  have hmul := halve_mul_two_pow (((q : Int) - 1).toNat.log2 + 1) ((q : Int) - 1).toNat 0
  have ho := halve_odd 0 (by omega : ((q : Int) - 1).toNat ≠ 0) Nat.lt_log2_self
  rw [hd] at hmul ho
  obtain ⟨o, ex⟩ := d
  dsimp only at hmul ho ⊢
  cases ex with
  | zero => omega
  | succ ex =>
    rw [pow_succ, ← mul_assoc, pow_zero, mul_one] at hmul
    exact ⟨ho, by omega, by rw [Nat.add_sub_cancel]; omega⟩

/-- A residue gets its smaller root (42_tonelli_shanks.md R99), by the fast path or by the general one. -/
theorem tsqrt_of_residue {n : Int} (h2 : q ≠ 2) (hn0 : n ≠ 0) (hn : legendre n q = 1) :
    ∃ r, tsqrt n q = .ok r ∧ IsSmallerRoot q n r := by
  have hpos : (0 : Int) < q := by exact_mod_cast hq.out.pos
  have hpow := (legendre_eq_one_iff h2 n).mp hn
  obtain ⟨d, hd⟩ : ∃ d, halve (((q : Int) - 1).toNat.log2 + 1) ((q : Int) - 1).toNat 0 = d := ⟨_, rfl⟩
  obtain ⟨ho, hex, hprod⟩ := halve_sub_one h2 hd
  rw [tsqrt_of_legendre_eq_one hpos hn0 hn hd]
  split
  · rename_i hone
    have h4 : q % 4 = 3 := by
      have hodd := mod_two_eq_one h2
      rw [hone] at hprod
      omega
    exact ⟨_, rfl, isSmallerRoot_min (modpow_nonneg _ _ hpos) (modpow_lt _ _ hpos) (fast_square h4 hpow)⟩
  · exact generalPath_of_residue h2 hpow ho hex hprod

end Modulus

/-- Settles O15: Euler's criterion sends TSQRT to NoRootSignal or on; on a residue the fast path's power is a root, and the
general path's loop keeps `root² = n·t` while the order of `t` falls, until `t = 1`. -/
theorem tsqrtDecidesOnOddPrimes : Obligations.TsqrtDecidesOnOddPrimes := by
  intro n p hp hp2 hn0
  lift p to Nat using by
    by_contra hneg
    exact Nat.not_prime_zero (Int.toNat_of_nonpos (by omega : p ≤ 0) ▸ hp)
  rw [Int.toNat_natCast] at hp
  have : Fact p.Prime := ⟨hp⟩
  have h2 : p ≠ 2 := by exact_mod_cast hp2
  rw [emod_ne_zero_iff, ← isSquare_cast_iff, ← legendre_eq_one_iff_isSquare h2]
  refine ⟨fun hres => ?_, tsqrt_of_legendre_ne_one (by exact_mod_cast hp.pos) hn0⟩
  obtain ⟨r, hr, hroot⟩ := tsqrt_of_residue h2 hn0 hres
  refine ⟨r, hr, hroot.nonneg, hroot.lt, hroot.smaller, (ZMod.intCast_eq_intCast_iff' _ _ p).mp ?_⟩
  rw [Int.cast_mul, ← sq, hroot.square]

end Sys2Proof.OddPrimes

/-! ## What a step can do: the rules that later proofs go through -/

namespace Sys2Proof.StepCases

open Sys2Proof.Machine Sys2Proof.Laws

/-- The state after the bus has taken the next event from the list and given the answer `a`. -/
def taken (s : State) (rest : List Input) (a : Response) : State := { s with inputs := rest, response := a }

/-- The controller state in which a command starts (10_state.md R34). -/
def entryState : Instr → CtrlState
  | .modpow => .mpExec
  | .legendre => .lgExec
  | .tsqrt => .tsValidate

@[simp] theorem wideReg_taken (s : State) (rest : List Input) (a : Response) (r : WideReg) :
    wideReg (taken s rest a) r = wideReg s r := by
  cases r <;> rfl

@[simp] theorem wideReg_overrunCmd (s : State) (r : WideReg) : wideReg (overrunCmd s) r = wideReg s r := by
  cases r <;> rfl

/-- A write of an operand word touches no register but the one it names (20_memory.md R47). -/
theorem wideReg_writeWide (q : WideReg) (j : Nat) (v : Word) (s : State) (r : WideReg) :
    wideReg (writeWide q j v s) r = wideReg s r ∨
      r = q ∧ wideReg (writeWide q j v s) r = setWord (wideReg s r) j v := by
  by_cases hq : r = q
  · subst hq
    cases r <;> simp [wideReg]
  · left
    cases r <;> simp [wideReg, Ne.symm hq]

/-! ### Command words -/

@[simp] theorem toNat_opField (w : Word) : (opField w).toNat = w.toNat % 16 := by
  simp [opField]

@[simp] theorem toNat_rsvdField (w : Word) : (rsvdField w).toNat = w.toNat / 16 := by
  have := w.isLt
  simp only [rsvdField, BitVec.extractLsb'_toNat, Nat.shiftRight_eq_div_pow]
  omega

theorem opField_eq (w : Word) : opField w = BitVec.ofNat 4 (w.toNat % 16) :=
  BitVec.eq_of_toNat_eq (by simp)

/-- The decoder accepts a command's full word and no other (30_encoding.md R57, R61). -/
theorem decode_eq_ok_iff (w : Word) (i : Instr) : decode w = .ok i ↔ w = encode i := by
  constructor
  · intro h
    have hw : ∀ n, rsvdField w = 0 → opField w = BitVec.ofNat 4 n → n < 16 → w = BitVec.ofNat 32 n := by
      intro n hr ho hn
      have hr := congrArg BitVec.toNat hr
      have ho := congrArg BitVec.toNat ho
      simp only [toNat_rsvdField, toNat_opField, BitVec.ofNat_eq_ofNat, BitVec.toNat_ofNat] at hr ho
      exact BitVec.eq_of_toNat_eq (by simp only [BitVec.toNat_ofNat]; omega)
    unfold decode at h
    split_ifs at h with hr h1 h2 h3 <;> cases h
    · exact hw 1 (not_not.mp hr) h1 (by decide)
    · exact hw 2 (not_not.mp hr) h2 (by decide)
    · exact hw 3 (not_not.mp hr) h3 (by decide)
  · rintro rfl
    cases i <;> rfl

/-- A word is illegal exactly where RSVD is not 0 or OP is no command's (30_encoding.md R59). -/
theorem decode_eq_error_iff (w : Word) :
    (∃ e, decode w = .error e) ↔ w.toNat / 16 ≠ 0 ∨ w.toNat % 16 ∉ [1, 2, 3] := by
  constructor
  · rintro ⟨e, he⟩
    by_contra hlegal
    rw [not_or, not_not, not_not] at hlegal
    obtain ⟨i, hi⟩ : ∃ i, w = encode i := by
      obtain ⟨hr, ho⟩ := hlegal
      simp only [List.mem_cons, List.not_mem_nil, or_false] at ho
      obtain ho | ho | ho := ho
      · exact ⟨.modpow, BitVec.eq_of_toNat_eq (show w.toNat = 1 by omega)⟩
      · exact ⟨.legendre, BitVec.eq_of_toNat_eq (show w.toNat = 2 by omega)⟩
      · exact ⟨.tsqrt, BitVec.eq_of_toNat_eq (show w.toNat = 3 by omega)⟩
    rw [(decode_eq_ok_iff w i).mpr hi] at he
    cases he
  · intro hillegal
    cases h : decode w with
    | error e => exact ⟨e, rfl⟩
    | ok i =>
      obtain rfl := (decode_eq_ok_iff w i).mp h
      exact absurd hillegal (by cases i <;> decide)

/-- A command word on an idle engine is accepted, with the command's opcode and entry state (10_state.md R34). -/
theorem exec_of_idle {s : State} (hb : s.busy = false) (i : Instr) :
    exec i s = .next (acceptLegal (opField (encode i)) (entryState i) s) := by
  cases i <;> simp [exec_eq, hb, entryState]

theorem exec_of_busy {s : State} (hb : s.busy = true) (i : Instr) : exec i s = .next (overrunCmd s) := by
  simp [exec_eq, hb]

theorem writeCmd_of_busy {s : State} (hb : s.busy = true) (w : Word) : writeCmd w s = .next (overrunCmd s) := by
  simp [writeCmd, hb]

theorem writeCmd_of_error {s : State} {w : Word} {e : DecodeError} (hb : s.busy = false) (he : decode w = .error e) :
    writeCmd w s = .next (acceptIllegal (opField w) s) := by
  simp [writeCmd, hb, he]

theorem writeCmd_of_ok {s : State} {w : Word} {i : Instr} (hb : s.busy = false) (hi : decode w = .ok i) :
    writeCmd w s = exec i s := by
  simp [writeCmd, hb, hi]

/-- A step whose event is a CMD write. -/
theorem step_of_cmd {s : State} {w : Word} {rest : List Input} (h : s.inputs = .write offCmd 4 w :: rest) :
    step s = writeCmd w (taken s rest .written) := by
  have htarget : target s.k offCmd = .cmd := rfl
  have haligned : (4 : Nat) = 4 ∧ offCmd.toNat % 4 = 0 := by decide
  rw [step_cons h, runInput, hostWrite_eq, if_pos haligned]
  simp only [htarget, writeTarget, taken]

/-! ### The offsets that an access can write -/

theorem wideBase_of_wideOfWindow {n : Nat} {r : WideReg} (h : wideOfWindow n = some r) :
    (wideBase r).toNat = 256 * n := by
  unfold wideOfWindow at h
  split at h <;> cases h <;> rfl

theorem window_of_wideOfWindow_eq_none {n : Nat} (h : wideOfWindow n = none) : n = 0 ∨ 16 ≤ n := by
  by_contra hn
  obtain ⟨h1, h2⟩ : 1 ≤ n ∧ n ≤ 15 := by omega
  interval_cases n <;> cases h

theorem narrowTarget_ne_wide (j : Nat) (r : WideReg) (l : Nat) : narrowTarget j ≠ .wide r l := by
  unfold narrowTarget
  split <;> exact fun h => by cases h

theorem word_of_narrowTarget_eq_cmd {j : Nat} (h : narrowTarget j = .cmd) : j = 1 := by
  unfold narrowTarget at h
  split at h <;> cases h
  rfl

/-- CMD stands at its one offset (20_memory.md R45). -/
theorem eq_offCmd_of_target {k : Nat} {off : Offset} (halign : off.toNat % 4 = 0) (h : target k off = .cmd) :
    off = offCmd := by
  have hlt := off.isLt
  unfold target at h
  simp only at h
  split at h
  · rename_i hnone
    have hwin := window_of_wideOfWindow_eq_none hnone
    have hj := word_of_narrowTarget_eq_cmd h
    exact BitVec.eq_of_toNat_eq (show off.toNat = 4 by omega)
  · split at h <;> cases h

/-- Word `j` of a wide register stands at `base + 4·j`, and exists for `j < K` alone (20_memory.md R42, R45). -/
theorem offset_of_target_wide {k j : Nat} {off : Offset} {r : WideReg} (halign : off.toNat % 4 = 0)
    (h : target k off = .wide r j) : j < k ∧ off = BitVec.ofNat 12 ((wideBase r).toNat + 4 * j) := by
  have hlt := off.isLt
  unfold target at h
  simp only at h
  split at h
  · exact (narrowTarget_ne_wide _ r j h).elim
  · rename_i hsome
    have hbase := wideBase_of_wideOfWindow hsome
    split at h
    · rename_i hjk
      cases h
      refine ⟨hjk, BitVec.eq_of_toNat_eq ?_⟩
      simp only [BitVec.toNat_ofNat]
      omega
    · cases h

/-! ### The cases of a step -/

/-- The engine's turn is a step of a busy engine, and nothing on an idle one (10_state.md R21). -/
theorem engineTurn_next {s t : State} (h : engineTurn s = .next t) :
    (s.busy = false ∧ t = s) ∨ (s.busy = true ∧ engineStep s = .next t) := by
  unfold engineTurn at h
  split at h
  · exact .inr ⟨‹_›, h⟩
  · exact .inl ⟨by simpa using ‹¬ s.busy = true›, (Host.Outcome.next.inj h).symm⟩

theorem engineTurn_of_idle {s : State} (hb : s.busy = false) : engineTurn s = .next s := by
  simp [engineTurn, hb]

/-- Everything a step of the machine can do, by its event. -/
inductive StepCase (s t : State) : Prop where
  /-- Nothing but the list of events and the bus's answer changes: a read, a write that is ignored, the turn of an idle
  engine, a stalled schedule. -/
  | quiet (a : Response) (ht : t = taken s s.inputs.tail a)
  /-- An operand word is written (20_memory.md R47). -/
  | operand (r : WideReg) (j : Nat) (v : Word) (rest : List Input) (hj : j < s.k)
      (hin : s.inputs = .write (BitVec.ofNat 12 ((wideBase r).toNat + 4 * j)) 4 v :: rest)
      (ht : t = writeWide r j v (taken s rest .written))
  /-- A command word is dropped (10_state.md R35). -/
  | overrun (w : Word) (rest : List Input) (hb : s.busy = true) (hin : s.inputs = .write offCmd 4 w :: rest)
      (ht : t = overrunCmd (taken s rest .written))
  /-- An illegal word is accepted (10_state.md R34). -/
  | illegal (w : Word) (e : DecodeError) (rest : List Input) (hb : s.busy = false) (he : decode w = .error e)
      (hin : s.inputs = .write offCmd 4 w :: rest) (ht : t = acceptIllegal (opField w) (taken s rest .written))
  /-- A command's word is accepted (10_state.md R34). -/
  | legal (i : Instr) (rest : List Input) (hb : s.busy = false) (hin : s.inputs = .write offCmd 4 (encode i) :: rest)
      (ht : t = acceptLegal (opField (encode i)) (entryState i) (taken s rest .written))
  /-- The busy engine takes a step (42_tonelli_shanks.md R83). -/
  | engine (hb : s.busy = true) (hin : s.inputs = [] ∨ ∃ rest, s.inputs = .engine :: rest)
      (hstep : engineStep (taken s s.inputs.tail s.response) = .next t)
  /-- The reset event (70_reset_and_hazards.md R131). -/
  | reset (rest : List Input) (hin : s.inputs = .reset :: rest) (ht : t = resetEvent (taken s rest s.response))

theorem stepCase_of_engineTurn {s t : State} (hin : s.inputs = [] ∨ ∃ rest, s.inputs = .engine :: rest)
    (h : engineTurn (taken s s.inputs.tail s.response) = .next t) : StepCase s t := by
  obtain ⟨-, rfl⟩ | ⟨hb, hstep⟩ := engineTurn_next h
  · exact .quiet s.response rfl
  · exact .engine hb hin hstep

theorem stepCase_of_cmd {s t : State} {w : Word} {rest : List Input} (hin : s.inputs = .write offCmd 4 w :: rest)
    (h : writeCmd w (taken s rest .written) = .next t) : StepCase s t := by
  cases hb : s.busy with
  | true =>
    rw [writeCmd_of_busy (s := taken s rest .written) hb] at h
    exact .overrun w rest hb hin (Host.Outcome.next.inj h).symm
  | false =>
    cases hd : decode w with
    | error e =>
      rw [writeCmd_of_error (s := taken s rest .written) hb hd] at h
      exact .illegal w e rest hb hd hin (Host.Outcome.next.inj h).symm
    | ok i =>
      obtain rfl := (decode_eq_ok_iff w i).mp hd
      rw [writeCmd_of_ok (s := taken s rest .written) hb hd, exec_of_idle (s := taken s rest .written) hb] at h
      exact .legal i rest hb hin (Host.Outcome.next.inj h).symm

theorem stepCase_of_write {s t : State} {off : Offset} {size : Nat} {v : Word} {rest : List Input}
    (hin : s.inputs = .write off size v :: rest) (h : hostWrite off size v { s with inputs := rest } = .next t) :
    StepCase s t := by
  rw [hostWrite_eq] at h
  split at h
  · rename_i hwf
    obtain ⟨rfl, halign⟩ := hwf
    obtain ⟨hcmd, hw⟩ | ⟨r, j, hwide, hw⟩ | ⟨-, -, hw⟩ := writeTarget_next v (taken s rest .written) (target s.k off)
    · obtain rfl := eq_offCmd_of_target halign hcmd
      exact stepCase_of_cmd hin (hw ▸ h)
    · obtain ⟨hj, rfl⟩ := offset_of_target_wide halign hwide
      exact .operand r j v rest hj hin (Host.Outcome.next.inj (hw.symm.trans h)).symm
    · exact .quiet .written (by rw [hin]; exact (Host.Outcome.next.inj (hw.symm.trans h)).symm)
  · cases h

theorem stepCase_of_step {s t : State} (h : step s = .next t) : StepCase s t := by
  cases hin : s.inputs with
  | nil =>
    have hs : taken s s.inputs.tail s.response = s := by rw [hin, List.tail_nil, ← hin]; rfl
    rw [step_nil hin] at h
    split at h
    · exact .quiet s.response (hs.symm ▸ (Host.Outcome.next.inj h).symm)
    · exact stepCase_of_engineTurn (.inl hin) (hs.symm ▸ h)
  | cons x rest =>
    rw [step_cons hin] at h
    cases x with
    | read off size =>
      rw [runInput, hostRead_eq] at h
      split at h
      · exact .quiet _ (by rw [hin]; exact (Host.Outcome.next.inj h).symm)
      · cases h
    | write off size v => exact stepCase_of_write hin h
    | engine => exact stepCase_of_engineTurn (.inr ⟨rest, hin⟩) (by rw [hin]; exact h)
    | reset => exact .reset rest hin (Host.Outcome.next.inj h).symm

end Sys2Proof.StepCases

/-! ## What an engine step can do to the registers that outlast it -/

namespace Sys2Proof.EngineCases

open Sys2Proof.Machine Sys2Proof.Laws

/-- The registers that no engine step writes (42_tonelli_shanks.md R109, 10_state.md R24). The fields' defaults serve a
state written out as an update of `s`. -/
structure HostFrame (s t : State) : Prop where
  k : t.k = s.k := by rfl
  opa : t.opa = s.opa := by rfl
  opb : t.opb = s.opb := by rfl
  ope : t.ope = s.ope := by rfl
  ln : t.ln = s.ln := by rfl
  lp : t.lp = s.lp := by rfl
  le : t.le = s.le := by rfl
  lastop : t.lastop = s.lastop := by rfl
  overrun : t.overrun = s.overrun := by rfl
  inputs : t.inputs = s.inputs := by rfl
  response : t.response = s.response := by rfl
  stalled : t.stalled = s.stalled := by rfl

/-- The command goes on: an engine step that writes working registers and STATE alone, within the command's own
states. -/
structure WorksOn (s t : State) : Prop extends HostFrame s t where
  busy : t.busy = s.busy := by rfl
  done : t.done = s.done := by rfl
  noroot : t.noroot = s.noroot := by rfl
  err : t.err = s.err := by rfl
  result : t.result = s.result := by rfl
  wide : ∀ r, wideReg t r = wideReg s r ∨ ∃ x, wideReg t r = enc s.k x := by intro r; cases r <;> simp [wideReg]
  running : t.ctrl ≠ .idle := by simp
  opcode : t.ctrl.opcode = s.ctrl.opcode

/-- The values that a command can end with: 0, a value of the modpow core, or TS_CANON's smaller root. -/
inductive OkValue (s : State) : Int → Prop
  | zero : OkValue s 0
  | power (b : Int) (e : Nat) (hp : 0 < opP s) : OkValue s (modpow b e (opP s))
  | root (hc : s.ctrl = .tsCanon) : OkValue s (min (uval s.root : Int) (opP s - uval s.root))

/-- Everything an engine step can do, as the registers beside the working ones see it: go on, or complete the command in
one of the three ways of 00_scope.md R12; a completion writes no working register but L. -/
inductive EngineCase (s t : State) : Prop where
  | worksOn (h : WorksOn s t)
  | ok (v : Int) (l : Wide) (hl : l = s.l ∨ ∃ x, l = enc s.k x) (hv : OkValue s v)
      (ht : t = finishOk v { s with l := l })
  | noroot (x : Int) (hc : s.ctrl = .tsLegendre) (ht : t = finishNoroot { s with l := enc s.k x })
  | err (e : ErrCode) (he : e.hardware = true) (ht : t = finishErr e s)

section

variable {s t : State}

theorem engineCase_mpExec (hs : stepMpExec s = .next t) : EngineCase s t := by
  obtain rfl := Host.Outcome.next.inj ((stepMpExec_eq s).symm.trans hs)
  split_ifs
  · exact .err .value rfl rfl
  · exact .err .modulusZero rfl rfl
  · exact .ok _ s.l (.inl rfl) (.power _ _ (by omega)) rfl

theorem engineCase_lgExec (hs : stepLgExec s = .next t) : EngineCase s t := by
  obtain rfl := Host.Outcome.next.inj ((stepLgExec_eq s).symm.trans hs)
  split_ifs
  · exact .err .value rfl rfl
  · exact .err .modulusZero rfl rfl
  · exact .ok _ _ (.inr ⟨_, rfl⟩) (.power _ _ (by omega)) rfl

theorem engineCase_tsValidate (hc : s.ctrl = .tsValidate) (hs : stepValidate s = .next t) : EngineCase s t := by
  obtain ⟨-, rfl⟩ | ⟨-, rfl⟩ := stepValidate_next hs
  · exact .err .value rfl rfl
  · exact .worksOn { opcode := by simp only [hc, CtrlState.opcode] }

theorem engineCase_tsZero (hc : s.ctrl = .tsZero) (hs : stepZero s = .next t) : EngineCase s t := by
  obtain ⟨-, rfl⟩ | ⟨-, rfl⟩ := stepZero_next hs
  · exact .ok 0 s.l (.inl rfl) .zero rfl
  · exact .worksOn { opcode := by simp only [hc, CtrlState.opcode] }

theorem engineCase_tsLegendre (hc : s.ctrl = .tsLegendre) (hs : stepLegendre s = .next t) : EngineCase s t := by
  obtain ⟨-, rfl⟩ | ⟨-, -, rfl⟩ | ⟨-, -, rfl⟩ := stepLegendre_next hs
  · exact .err .modulusZero rfl rfl
  · exact .noroot _ hc rfl
  · exact .worksOn { opcode := by simp only [hc, CtrlState.opcode] }

theorem engineCase_tsDecomp (hc : s.ctrl = .tsDecomp) (hs : stepDecomp s = .next t) : EngineCase s t := by
  obtain ⟨-, rfl⟩ | ⟨-, -, rfl⟩ | ⟨-, -, rfl⟩ := stepDecomp_next hs <;>
    exact .worksOn { opcode := by simp only [hc, CtrlState.opcode] }

theorem engineCase_tsFast (hc : s.ctrl = .tsFast) (hs : stepFast s = .next t) : EngineCase s t := by
  obtain ⟨-, rfl⟩ := stepFast_next hs
  exact .worksOn { opcode := by simp only [hc, CtrlState.opcode] }

theorem engineCase_tsWscan (hc : s.ctrl = .tsWscan) (hs : stepWscan s = .next t) : EngineCase s t := by
  obtain ⟨-, rfl⟩ | ⟨-, -, rfl⟩ | ⟨-, -, rfl⟩ := stepWscan_next hs
  · exact .err .witnessNotFound rfl rfl
  · exact .worksOn { opcode := by simp only [hc, CtrlState.opcode] }
  · exact .worksOn { opcode := by simp only [hc, CtrlState.opcode] }

theorem engineCase_tsInit (hc : s.ctrl = .tsInit) (hs : stepInit s = .next t) : EngineCase s t := by
  obtain ⟨-, rfl⟩ := stepInit_next hs
  exact .worksOn { opcode := by simp only [hc, CtrlState.opcode] }

theorem engineCase_tsLoop (hc : s.ctrl = .tsLoop) (hs : stepLoop s = .next t) : EngineCase s t := by
  obtain ⟨-, ⟨-, rfl⟩ | ⟨-, rfl⟩⟩ := stepLoop_next hs <;>
    exact .worksOn { opcode := by simp only [hc, CtrlState.opcode] }

theorem engineCase_tsIscan (hc : s.ctrl = .tsIscan) (hs : stepIscan s = .next t) : EngineCase s t := by
  obtain ⟨-, rfl⟩ | ⟨-, -, ⟨-, rfl⟩ | ⟨-, rfl⟩⟩ := stepIscan_next hs
  · exact .err .noConvergence rfl rfl
  · exact .worksOn { opcode := by simp only [hc, CtrlState.opcode] }
  · exact .worksOn { opcode := by simp only [hc, CtrlState.opcode] }

theorem engineCase_tsBcomp (hc : s.ctrl = .tsBcomp) (hs : stepBcomp s = .next t) : EngineCase s t := by
  obtain ⟨-, -, rfl⟩ := stepBcomp_next hs
  exact .worksOn { opcode := by simp only [hc, CtrlState.opcode] }

theorem engineCase_tsUpdate (hc : s.ctrl = .tsUpdate) (hs : stepUpdate s = .next t) : EngineCase s t := by
  obtain ⟨-, rfl⟩ := stepUpdate_next hs
  exact .worksOn { opcode := by simp only [hc, CtrlState.opcode] }

theorem engineCase_tsCanon (hc : s.ctrl = .tsCanon) (hs : stepCanon s = .next t) : EngineCase s t := by
  obtain rfl := Host.Outcome.next.inj ((stepCanon_eq s).symm.trans hs)
  exact .ok _ s.l (.inl rfl) (.root hc) rfl

theorem engineCase_of_engineStep (hs : engineStep s = .next t) : EngineCase s t := by
  cases hc : s.ctrl <;> simp only [engineStep, hc] at hs
  case idle => cases hs
  case mpExec => exact engineCase_mpExec hs
  case lgExec => exact engineCase_lgExec hs
  case tsValidate => exact engineCase_tsValidate hc hs
  case tsZero => exact engineCase_tsZero hc hs
  case tsLegendre => exact engineCase_tsLegendre hc hs
  case tsDecomp => exact engineCase_tsDecomp hc hs
  case tsFast => exact engineCase_tsFast hc hs
  case tsWscan => exact engineCase_tsWscan hc hs
  case tsInit => exact engineCase_tsInit hc hs
  case tsLoop => exact engineCase_tsLoop hc hs
  case tsIscan => exact engineCase_tsIscan hc hs
  case tsBcomp => exact engineCase_tsBcomp hc hs
  case tsUpdate => exact engineCase_tsUpdate hc hs
  case tsCanon => exact engineCase_tsCanon hc hs

end

/-! ### Consequences: what no engine step touches, and how BUSY, RESULT and NOROOT can change -/

section

variable {s t : State}

theorem EngineCase.hostFrame (h : EngineCase s t) : HostFrame s t := by
  cases h with
  | worksOn h => exact h.toHostFrame
  | ok v l hl hv ht => subst ht; exact {}
  | noroot x hc ht => subst ht; exact {}
  | err e he ht => subst ht; exact {}

/-- An engine step leaves a wide register as it is or writes an encoded value to it. -/
theorem EngineCase.wide (h : EngineCase s t) (r : WideReg) :
    wideReg t r = wideReg s r ∨ ∃ x, wideReg t r = enc s.k x := by
  cases h with
  | worksOn h => exact h.wide r
  | ok v l hl hv ht => subst ht; cases r <;> simp [wideReg, hl]
  | noroot x hc ht => subst ht; cases r <;> simp [wideReg]
  | err e he ht => subst ht; cases r <;> simp [wideReg]

/-- An engine step that goes on leaves BUSY, NOROOT and RESULT alone; every other one completes the command. -/
theorem EngineCase.goesOn_or_completes (h : EngineCase s t) :
    (t.busy = s.busy ∧ t.noroot = s.noroot ∧ t.result = s.result) ∨
    (t.busy = false ∧ t.done = true ∧ t.ctrl = .idle ∧
      (t.noroot = s.noroot ∨ s.ctrl = .tsLegendre ∧ t.noroot = true)) := by
  cases h with
  | worksOn h => exact .inl ⟨h.busy, h.noroot, h.result⟩
  | ok v l hl hv ht => subst ht; exact .inr ⟨rfl, rfl, rfl, .inl rfl⟩
  | noroot x hc ht => subst ht; exact .inr ⟨rfl, rfl, rfl, .inr ⟨hc, rfl⟩⟩
  | err e he ht => subst ht; exact .inr ⟨rfl, rfl, rfl, .inl rfl⟩

end

end Sys2Proof.EngineCases

/-! ## The machine invariant -/

namespace Sys2Proof.MachineInvariant

open Sys2Proof.Machine Sys2Proof.Laws Sys2Proof.StepCases Sys2Proof.EngineCases

/-! ### What TSQRT's registers hold, state by state

The clauses of `Inv` on the working registers, gathered for each controller state. -/

/-- After TS_LEGENDRE: a residue, and `p − 1 = ODD · 2^EXPONENT` (42_tonelli_shanks.md R87, R88). -/
structure AtDecomp (s : State) : Prop where
  modulus : 2 ≤ opP s
  operand : opN s ≠ 0
  legendre : legendre (opN s) (opP s) = 1
  value : uval s.l = 1
  product : (uval s.odd : Int) * 2 ^ s.exponent.toNat = opP s - 1

/-- After the decomposition (R88). -/
structure Decomposed (s : State) : Prop extends AtDecomp s where
  oddPart : uval s.odd % 2 = 1

/-- In TS_FAST (R88, R89). -/
structure AtFast (s : State) : Prop extends Decomposed s where
  exponent : s.exponent = 1#32

/-- In the witness scan (R90). -/
structure AtWscan (s : State) : Prop extends Decomposed s where
  two_le : 2 ≤ uval s.z
  le : (uval s.z : Int) ≤ opP s
  smallest : ∀ y : Nat, 2 ≤ y → y < uval s.z → Machine.legendre y (opP s) ≠ opP s - 1

/-- With the witness found (R90, R106). -/
structure AtInit (s : State) : Prop extends Decomposed s where
  two_le : 2 ≤ uval s.z
  witness : Machine.legendre (uval s.z) (opP s) = opP s - 1
  lt : (uval s.z : Int) < opP s
  smallest : ∀ y : Nat, 2 ≤ y → y < uval s.z → Machine.legendre y (opP s) ≠ opP s - 1

/-- In the outer loop (10_state.md R32). -/
structure AtLoop (s : State) : Prop extends AtInit s where
  c_lt : (uval s.c : Int) < opP s
  t_lt : (uval s.t : Int) < opP s
  root_lt : (uval s.root : Int) < opP s
  m_le : s.m.toNat ≤ s.exponent.toNat

/-- In the inner scan (R93, R94; log 10). -/
structure AtIscan (s : State) : Prop extends AtLoop s where
  one_le : 1 ≤ s.i.toNat
  i_le : s.i.toNat ≤ max s.m.toNat 1
  s_lt : (uval s.s : Int) < opP s

/-- After the inner scan's hit (R94). -/
structure AtBcomp (s : State) : Prop extends AtLoop s where
  one_le : 1 ≤ s.i.toNat
  i_lt : s.i.toNat < s.m.toNat

/-- In TS_UPDATE (R95). -/
structure AtUpdate (s : State) : Prop extends AtBcomp s where
  b_lt : (uval s.b : Int) < opP s

/-- In TS_CANON (R97). -/
structure AtCanon (s : State) : Prop extends Decomposed s where
  root_lt : (uval s.root : Int) < opP s

/-- What holds in a state of TSQRT, by its controller state. -/
def FactsAt : CtrlState → State → Prop
  | .idle, _ | .mpExec, _ | .lgExec, _ | .tsValidate, _ => True
  | .tsZero, s => 0 ≤ opP s
  | .tsLegendre, s => 0 ≤ opP s ∧ opN s ≠ 0
  | .tsDecomp, s => AtDecomp s
  | .tsFast, s => AtFast s
  | .tsWscan, s => AtWscan s
  | .tsInit, s => AtInit s
  | .tsLoop, s => AtLoop s
  | .tsIscan, s => AtIscan s
  | .tsBcomp, s => AtBcomp s
  | .tsUpdate, s => AtUpdate s
  | .tsCanon, s => AtCanon s

/-! From `Inv` to these facts. -/

section

variable {s : State} (h : Inv s)
include h

theorem atDecomp (hc : s.ctrl.residue = true) : AtDecomp s := by
  obtain ⟨hp, hl, hv⟩ := h.residue hc
  have hn : s.ctrl.nonzero = true := by
    revert hc
    cases s.ctrl <;> decide
  exact ⟨hp, h.nonzero hn, hl, hv, h.decomposition hc⟩

theorem decomposed (hc : s.ctrl.decomposed = true) : Decomposed s := by
  have hr : s.ctrl.residue = true := by
    revert hc
    cases s.ctrl <;> decide
  exact { atDecomp h hr with oddPart := h.oddPart hc }

theorem atInit (hc : s.ctrl.witnessed = true) : AtInit s := by
  obtain ⟨h2, hz, hlt⟩ := h.witness hc
  have hd : s.ctrl.decomposed = true := by
    revert hc
    cases s.ctrl <;> decide
  exact { decomposed h hd with two_le := h2, witness := hz, lt := hlt, smallest := h.smallest (.inr hc) }

theorem atLoop (hc : s.ctrl.looping = true) : AtLoop s := by
  obtain ⟨hcp, htp, hrp, hm⟩ := h.loopRange hc
  have hw : s.ctrl.witnessed = true := by
    revert hc
    cases s.ctrl <;> decide
  exact { atInit h hw with c_lt := hcp, t_lt := htp, root_lt := hrp, m_le := hm }

theorem atBcomp (hc : s.ctrl.scanned = true) : AtBcomp s := by
  obtain ⟨h1, hi⟩ := h.scannedRange hc
  have hl : s.ctrl.looping = true := by
    revert hc
    cases s.ctrl <;> decide
  exact { atLoop h hl with one_le := h1, i_lt := hi }

theorem atIscan (hc : s.ctrl = .tsIscan) : AtIscan s := by
  obtain ⟨h1, hi, hs⟩ := h.scanRange hc
  exact { atLoop h (by rw [hc]; rfl) with one_le := h1, i_le := hi, s_lt := hs }

theorem atWscan (hc : s.ctrl = .tsWscan) : AtWscan s := by
  obtain ⟨h2, hle⟩ := h.candidate hc
  exact { decomposed h (by rw [hc]; rfl) with two_le := h2, le := hle, smallest := h.smallest (.inl hc) }

/-- The invariant's facts on the working registers, as one statement by the controller state. -/
theorem factsAt : FactsAt s.ctrl s := by
  cases hc : s.ctrl with
  | idle | mpExec | lgExec | tsValidate => trivial
  | tsZero => exact h.validated (by rw [hc]; rfl)
  | tsLegendre => exact ⟨h.validated (by rw [hc]; rfl), h.nonzero (by rw [hc]; rfl)⟩
  | tsDecomp => exact atDecomp h (by rw [hc]; rfl)
  | tsFast => exact { decomposed h (by rw [hc]; rfl) with exponent := h.fastPath hc }
  | tsWscan => exact atWscan h hc
  | tsInit => exact atInit h (by rw [hc]; rfl)
  | tsLoop => exact atLoop h (by rw [hc]; rfl)
  | tsIscan => exact atIscan h hc
  | tsBcomp => exact atBcomp h (by rw [hc]; rfl)
  | tsUpdate => exact { atBcomp h (by rw [hc]; rfl) with b_lt := h.updateRange hc }
  | tsCanon => exact { decomposed h (by rw [hc]; rfl) with root_lt := h.canonRange hc }

end

/-! From these facts back to the clauses of `Inv`. -/

section

variable {s : State}

theorem FactsAt.atDecomp : ∀ {c : CtrlState}, c.residue = true → FactsAt c s → AtDecomp s
  | .tsDecomp, _, h => h
  | .tsFast, _, h => h.toAtDecomp
  | .tsWscan, _, h => h.toAtDecomp
  | .tsInit, _, h => h.toAtDecomp
  | .tsLoop, _, h => h.toAtDecomp
  | .tsIscan, _, h => h.toAtDecomp
  | .tsBcomp, _, h => h.toAtDecomp
  | .tsUpdate, _, h => h.toAtDecomp
  | .tsCanon, _, h => h.toAtDecomp

theorem FactsAt.decomposed : ∀ {c : CtrlState}, c.decomposed = true → FactsAt c s → Decomposed s
  | .tsFast, _, h => h.toDecomposed
  | .tsWscan, _, h => h.toDecomposed
  | .tsInit, _, h => h.toDecomposed
  | .tsLoop, _, h => h.toDecomposed
  | .tsIscan, _, h => h.toDecomposed
  | .tsBcomp, _, h => h.toDecomposed
  | .tsUpdate, _, h => h.toDecomposed
  | .tsCanon, _, h => h.toDecomposed

theorem FactsAt.atInit : ∀ {c : CtrlState}, c.witnessed = true → FactsAt c s → AtInit s
  | .tsInit, _, h => h
  | .tsLoop, _, h => h.toAtInit
  | .tsIscan, _, h => h.toAtInit
  | .tsBcomp, _, h => h.toAtInit
  | .tsUpdate, _, h => h.toAtInit

theorem FactsAt.atLoop : ∀ {c : CtrlState}, c.looping = true → FactsAt c s → AtLoop s
  | .tsLoop, _, h => h
  | .tsIscan, _, h => h.toAtLoop
  | .tsBcomp, _, h => h.toAtLoop
  | .tsUpdate, _, h => h.toAtLoop

theorem FactsAt.atBcomp : ∀ {c : CtrlState}, c.scanned = true → FactsAt c s → AtBcomp s
  | .tsBcomp, _, h => h
  | .tsUpdate, _, h => h.toAtBcomp

theorem FactsAt.nonzero : ∀ {c : CtrlState}, c.nonzero = true → FactsAt c s → opN s ≠ 0
  | .tsLegendre, _, h => h.2
  | .tsDecomp, _, h => h.operand
  | .tsFast, _, h => h.operand
  | .tsWscan, _, h => h.operand
  | .tsInit, _, h => h.operand
  | .tsLoop, _, h => h.operand
  | .tsIscan, _, h => h.operand
  | .tsBcomp, _, h => h.operand
  | .tsUpdate, _, h => h.operand
  | .tsCanon, _, h => h.operand

theorem AtDecomp.nonneg (h : AtDecomp s) : 0 ≤ opP s := le_trans (by decide) h.modulus

theorem FactsAt.validated : ∀ {c : CtrlState}, c.validated = true → FactsAt c s → 0 ≤ opP s
  | .tsZero, _, h => h
  | .tsLegendre, _, h => h.1
  | .tsDecomp, _, h => h.nonneg
  | .tsFast, _, h => h.nonneg
  | .tsWscan, _, h => h.nonneg
  | .tsInit, _, h => h.nonneg
  | .tsLoop, _, h => h.nonneg
  | .tsIscan, _, h => h.nonneg
  | .tsBcomp, _, h => h.nonneg
  | .tsUpdate, _, h => h.nonneg
  | .tsCanon, _, h => h.nonneg

theorem FactsAt.of_eq {c d : CtrlState} (hc : c = d) (h : FactsAt c s) : FactsAt d s := hc ▸ h

end

/-- The clauses of `Inv` on everything but the working registers: K, widths, STATUS, STATE and RESULT. -/
structure OuterInv (s : State) : Prop where
  kRange : 1 ≤ s.k ∧ s.k ≤ Config.maxK
  len : ∀ r, (wideReg s r).length = s.k
  busyCtrl : s.busy = false ↔ s.ctrl = .idle
  running : s.busy = true → s.done = false ∧ s.noroot = false ∧ s.err = .none ∧ s.lastop = s.ctrl.opcode
  norootOutcome : s.noroot = true → s.done = true ∧ s.err = .none ∧ s.lastop = 3#4 ∧ uval s.result = 0
  errOutcome : s.err ≠ .none → s.done = true ∧ s.noroot = false ∧ uval s.result = 0
  errHardware : s.err.hardware = true
  resultTop : uval s.result < 2 ^ (bitWidth s.k - 1)

/-- The machine invariant, split into the outer registers' part and the working registers' part. -/
theorem inv_iff (s : State) : Inv s ↔ OuterInv s ∧ FactsAt s.ctrl s := by
  constructor
  · exact fun h => ⟨{ h with }, factsAt h⟩
  · rintro ⟨h, hf⟩
    exact
      { h with
        validated := fun hc => hf.validated hc
        nonzero := fun hc => hf.nonzero hc
        residue := fun hc => have hd := hf.atDecomp hc; ⟨hd.modulus, hd.legendre, hd.value⟩
        decomposition := fun hc => (hf.atDecomp hc).product
        oddPart := fun hc => (hf.decomposed hc).oddPart
        fastPath := fun hc => AtFast.exponent (hf.of_eq hc)
        candidate := fun hc => have hw : AtWscan s := hf.of_eq hc; ⟨hw.two_le, hw.le⟩
        witness := fun hc => have hi := hf.atInit hc; ⟨hi.two_le, hi.witness, hi.lt⟩
        smallest := fun hc => hc.elim (fun hc => AtWscan.smallest (hf.of_eq hc)) fun hc => (hf.atInit hc).smallest
        loopRange := fun hc => have hl := hf.atLoop hc; ⟨hl.c_lt, hl.t_lt, hl.root_lt, hl.m_le⟩
        scanRange := fun hc => have hi : AtIscan s := hf.of_eq hc; ⟨hi.one_le, hi.i_le, hi.s_lt⟩
        scannedRange := fun hc => have hb := hf.atBcomp hc; ⟨hb.one_le, hb.i_lt⟩
        updateRange := fun hc => AtUpdate.b_lt (hf.of_eq hc)
        canonRange := fun hc => AtCanon.root_lt (hf.of_eq hc) }

end Sys2Proof.MachineInvariant

/-! ### Every engine step keeps the facts on the working registers -/

namespace Sys2Proof.MachineInvariant

open Sys2Proof.Machine Sys2Proof.Laws Sys2Proof.StepCases Sys2Proof.EngineCases

section Ranges

variable {s : State} (h : Inv s)
include h

theorem opP_lt : opP s < 2 ^ (bitWidth s.k - 1) := by
  have hlen : s.lp.length = s.k := h.len .lp
  simpa [opP, hlen] using sval_upper s.lp (hlen ▸ h.kRange.1)

/-- A value up to the modulus is read back from the register it is written to (10_state.md R32). -/
theorem uval_enc_of_le_opP {x : Int} (h0 : 0 ≤ x) (hx : x ≤ opP s) : (uval (enc s.k x) : Int) = x := by
  have hp : (2 : Int) ^ (bitWidth s.k - 1) ≤ 2 ^ bitWidth s.k := pow_le_pow_right₀ (by decide) (Nat.sub_le _ 1)
  have hlt := opP_lt h
  exact uval_enc_of_lt h0 (by omega)

theorem uval_enc_modpow_lt (b : Int) (e : Nat) (hp : 0 < opP s) :
    (uval (enc s.k (modpow b e (opP s))) : Int) < opP s := by
  have hlt := modpow_lt b e hp
  rwa [uval_enc_of_le_opP h (modpow_nonneg b e hp) hlt.le]

theorem uval_enc_modmul_lt (x y : Int) (hp : 0 < opP s) : (uval (enc s.k (modmul x y (opP s))) : Int) < opP s := by
  have hlt := modmul_lt x y hp
  rwa [uval_enc_of_le_opP h (modmul_nonneg x y hp) hlt.le]

/-- EXPONENT never comes near the end of its 32 bits: `2^EXPONENT ≤ p − 1 < 2^(W−1)`. -/
theorem exponent_lt (hd : AtDecomp s) : s.exponent.toNat < 2047 := by
  have hodd : 1 ≤ uval s.odd := by
    have hmod := hd.modulus
    have hprod := hd.product
    refine Nat.one_le_iff_ne_zero.mpr fun h0 => ?_
    rw [h0, Nat.cast_zero, zero_mul] at hprod
    omega
  have hpow : (2 : Int) ^ s.exponent.toNat < 2 ^ (bitWidth s.k - 1) := by
    calc (2 : Int) ^ s.exponent.toNat ≤ uval s.odd * 2 ^ s.exponent.toNat :=
          le_mul_of_one_le_left (by positivity) (by exact_mod_cast hodd)
      _ = opP s - 1 := hd.product
      _ < 2 ^ (bitWidth s.k - 1) := by have := opP_lt h; omega
  have hexp : s.exponent.toNat < bitWidth s.k - 1 := (pow_lt_pow_iff_right₀ (by decide)).mp hpow
  have hk := h.kRange.2
  unfold bitWidth at hexp
  unfold Config.maxK at hk
  omega

end Ranges

section EngineSteps

variable {s t : State} (h : Inv s)
include h

theorem factsAt_tsLegendre (hc : s.ctrl = .tsLegendre) (hs : stepLegendre s = .next t) : FactsAt t.ctrl t := by
  obtain ⟨-, rfl⟩ | ⟨-, -, rfl⟩ | ⟨hp, hleg, rfl⟩ := stepLegendre_next hs
  · trivial
  · trivial
  · have hmod : 2 ≤ opP s := by
      by_contra hlt
      have hone : opP s = 1 := by omega
      rw [hone, legendre_eq, Int.emod_one] at hleg
      cases hleg
    have hprod : (uval (enc s.k (opP s - 1)) : Int) * 2 ^ (0#32).toNat = opP s - 1 := by
      rw [uval_enc_of_le_opP h (by omega) (by omega)]
      simp
    have hvalue : (uval (enc s.k 1) : Int) = 1 := uval_enc_of_le_opP h (by decide) hp
    exact
      { modulus := hmod, operand := h.nonzero (by rw [hc]; rfl), legendre := hleg
        value := by rw [hleg]; exact_mod_cast hvalue
        product := hprod }

theorem factsAt_tsDecomp (hc : s.ctrl = .tsDecomp) (hs : stepDecomp s = .next t) : FactsAt t.ctrl t := by
  have hd : AtDecomp s := atDecomp h (by rw [hc]; rfl)
  have hmod := hd.modulus
  obtain ⟨heven, rfl⟩ | ⟨hodd, hone, rfl⟩ | ⟨hodd, -, rfl⟩ := stepDecomp_next hs
  · have hexp : (s.exponent + 1#32).toNat = s.exponent.toNat + 1 := by
      have := exponent_lt h hd
      rw [BitVec.toNat_add]
      simp only [BitVec.toNat_ofNat]
      omega
    have hprod := hd.product
    have hhalf : uval s.odd = 2 * (uval s.odd / 2) := by omega
    have hle : ((uval s.odd / 2 : Nat) : Int) ≤ opP s := by
      have : (uval s.odd : Int) ≤ uval s.odd * 2 ^ s.exponent.toNat :=
        le_mul_of_one_le_right (by positivity) (one_le_pow₀ (by decide))
      omega
    have hproduct : (uval (enc s.k (uval s.odd / 2 : Nat)) : Int) * 2 ^ (s.exponent + 1#32).toNat = opP s - 1 := by
      rw [uval_enc_of_le_opP h (by positivity) hle, hexp, ← hprod, pow_succ', ← mul_assoc]
      congr 1
      omega
    exact { hd with product := hproduct }
  · exact { hd with oddPart := hodd, exponent := hone }
  · have hz : (uval (enc s.k 2) : Int) = 2 := uval_enc_of_le_opP h (by decide) hmod
    have hz' : uval (enc s.k 2) = 2 := by exact_mod_cast hz
    exact
      { hd with
        oddPart := hodd
        two_le := hz'.ge
        le := hz.trans_le hmod
        smallest := fun y hy hlt => absurd (hz' ▸ hlt) (by omega) }

theorem factsAt_tsFast (hc : s.ctrl = .tsFast) (hs : stepFast s = .next t) : FactsAt t.ctrl t := by
  have hd : Decomposed s := decomposed h (by rw [hc]; rfl)
  obtain ⟨hp, rfl⟩ := stepFast_next hs
  exact { hd with root_lt := uval_enc_modpow_lt h _ _ hp }

theorem factsAt_tsWscan (hc : s.ctrl = .tsWscan) (hs : stepWscan s = .next t) : FactsAt t.ctrl t := by
  have hw := atWscan h hc
  have h2 := hw.two_le
  obtain ⟨-, rfl⟩ | ⟨hlt, hleg, rfl⟩ | ⟨hlt, hleg, rfl⟩ := stepWscan_next hs
  · trivial
  · exact { hw with witness := hleg, lt := hlt }
  · have hz : (uval (enc s.k ((uval s.z : Int) + 1)) : Int) = uval s.z + 1 :=
      uval_enc_of_le_opP h (by positivity) hlt
    have hz' : uval (enc s.k ((uval s.z : Int) + 1)) = uval s.z + 1 := by exact_mod_cast hz
    have hsmallest : ∀ y : Nat, 2 ≤ y → y < uval s.z + 1 → legendre y (opP s) ≠ opP s - 1 := by
      intro y hy hyz
      rcases Nat.lt_succ_iff_lt_or_eq.mp hyz with hyz | rfl
      · exact hw.smallest y hy hyz
      · exact hleg
    exact
      { hw with
        two_le := hz' ▸ Nat.le_succ_of_le h2
        le := hz.trans_le hlt
        smallest := fun y hy hlt => hsmallest y hy (hz' ▸ hlt) }

theorem factsAt_tsInit (hc : s.ctrl = .tsInit) (hs : stepInit s = .next t) : FactsAt t.ctrl t := by
  have hi : AtInit s := atInit h (by rw [hc]; rfl)
  obtain ⟨hp, rfl⟩ := stepInit_next hs
  exact
    { hi with
      c_lt := uval_enc_modpow_lt h _ _ hp
      t_lt := uval_enc_modpow_lt h _ _ hp
      root_lt := uval_enc_modpow_lt h _ _ hp
      m_le := le_rfl }

theorem factsAt_tsLoop (hc : s.ctrl = .tsLoop) (hs : stepLoop s = .next t) : FactsAt t.ctrl t := by
  have hl : AtLoop s := atLoop h (by rw [hc]; rfl)
  obtain ⟨hp, ⟨-, rfl⟩ | ⟨-, rfl⟩⟩ := stepLoop_next hs
  · exact { hl with }
  · exact { hl with one_le := le_rfl, i_le := le_max_right _ _, s_lt := uval_enc_modmul_lt h _ _ hp }

theorem factsAt_tsIscan (hc : s.ctrl = .tsIscan) (hs : stepIscan s = .next t) : FactsAt t.ctrl t := by
  have hi := atIscan h hc
  obtain ⟨-, rfl⟩ | ⟨him, hp, ⟨-, rfl⟩ | ⟨-, rfl⟩⟩ := stepIscan_next hs
  · trivial
  · exact { hi with i_lt := him }
  · have hsucc : (s.i + 1#32).toNat = s.i.toNat + 1 := by
      have := s.m.isLt
      rw [BitVec.toNat_add]
      simp only [BitVec.toNat_ofNat]
      omega
    exact
      { hi with
        one_le := hsucc ▸ Nat.le_add_left 1 _
        i_le := hsucc ▸ le_max_of_le_left him
        s_lt := uval_enc_modmul_lt h _ _ hp }

theorem factsAt_tsBcomp (hc : s.ctrl = .tsBcomp) (hs : stepBcomp s = .next t) : FactsAt t.ctrl t := by
  have hb : AtBcomp s := atBcomp h (by rw [hc]; rfl)
  obtain ⟨-, hp, rfl⟩ := stepBcomp_next hs
  exact { hb with b_lt := uval_enc_modpow_lt h _ _ hp }

theorem factsAt_tsUpdate (hc : s.ctrl = .tsUpdate) (hs : stepUpdate s = .next t) : FactsAt t.ctrl t := by
  have hb : AtBcomp s := atBcomp h (by rw [hc]; rfl)
  obtain ⟨hp, rfl⟩ := stepUpdate_next hs
  exact
    { hb with
      c_lt := uval_enc_modmul_lt h _ _ hp
      t_lt := uval_enc_modmul_lt h _ _ hp
      root_lt := uval_enc_modmul_lt h _ _ hp
      m_le := hb.i_lt.le.trans hb.m_le }

/-- Every engine step of TSQRT leaves what its next state needs (42_tonelli_shanks.md R85 to R96). -/
theorem factsAt_of_engineStep (hs : engineStep s = .next t) : FactsAt t.ctrl t := by
  cases hc : s.ctrl <;> simp only [engineStep, hc] at hs
  case idle => cases hs
  case mpExec =>
    obtain rfl := Host.Outcome.next.inj ((stepMpExec_eq s).symm.trans hs)
    split_ifs <;> trivial
  case lgExec =>
    obtain rfl := Host.Outcome.next.inj ((stepLgExec_eq s).symm.trans hs)
    split_ifs <;> trivial
  case tsValidate =>
    obtain ⟨-, rfl⟩ | ⟨hp, rfl⟩ := stepValidate_next hs
    · trivial
    · exact hp
  case tsZero =>
    obtain ⟨-, rfl⟩ | ⟨hn, rfl⟩ := stepZero_next hs
    · trivial
    · exact ⟨h.validated (by rw [hc]; rfl), hn⟩
  case tsLegendre => exact factsAt_tsLegendre h hc hs
  case tsDecomp => exact factsAt_tsDecomp h hc hs
  case tsFast => exact factsAt_tsFast h hc hs
  case tsWscan => exact factsAt_tsWscan h hc hs
  case tsInit => exact factsAt_tsInit h hc hs
  case tsLoop => exact factsAt_tsLoop h hc hs
  case tsIscan => exact factsAt_tsIscan h hc hs
  case tsBcomp => exact factsAt_tsBcomp h hc hs
  case tsUpdate => exact factsAt_tsUpdate h hc hs
  case tsCanon =>
    obtain rfl := Host.Outcome.next.inj ((stepCanon_eq s).symm.trans hs)
    trivial

end EngineSteps

end Sys2Proof.MachineInvariant

/-! ### Every step keeps the invariant -/

namespace Sys2Proof.MachineInvariant

open Sys2Proof.Machine Sys2Proof.Laws Sys2Proof.StepCases Sys2Proof.EngineCases

section

variable {s t : State}

/-- An idle engine meets the invariant when its completed outcome does: no clause on the working registers applies. -/
theorem inv_of_idle (hK : 1 ≤ t.k ∧ t.k ≤ Config.maxK) (hlen : ∀ r, (wideReg t r).length = t.k)
    (hb : t.busy = false) (hc : t.ctrl = .idle)
    (hnr : t.noroot = true → t.done = true ∧ t.err = .none ∧ t.lastop = 3#4 ∧ uval t.result = 0)
    (herr : t.err ≠ .none → t.done = true ∧ t.noroot = false ∧ uval t.result = 0) (hhw : t.err.hardware = true)
    (hres : uval t.result < 2 ^ (bitWidth t.k - 1)) : Inv t :=
  (inv_iff t).mpr
    ⟨{ kRange := hK, len := hlen, busyCtrl := by simp [hb, hc], running := by simp [hb], norootOutcome := hnr
       errOutcome := herr, errHardware := hhw, resultTop := hres }, by rw [hc]; trivial⟩

/-- A running engine meets the invariant when its flags are as accept left them and its state has its facts. -/
theorem inv_of_running (hK : 1 ≤ t.k ∧ t.k ≤ Config.maxK) (hlen : ∀ r, (wideReg t r).length = t.k)
    (hb : t.busy = true) (hc : t.ctrl ≠ .idle) (hdone : t.done = false) (hnr : t.noroot = false) (herr : t.err = .none)
    (hop : t.lastop = t.ctrl.opcode) (hres : uval t.result < 2 ^ (bitWidth t.k - 1)) (hf : FactsAt t.ctrl t) : Inv t :=
  (inv_iff t).mpr
    ⟨{ kRange := hK, len := hlen, busyCtrl := by simp [hb, hc], running := fun _ => ⟨hdone, hnr, herr, hop⟩
       norootOutcome := by simp [hnr], errOutcome := by simp [herr], errHardware := by rw [herr]; rfl
       resultTop := hres }, hf⟩

/-- Registers that are as before, or that hold an encoded value, keep their width. -/
theorem len_of_wide (h : Inv s) (hk : t.k = s.k)
    (hw : ∀ r, wideReg t r = wideReg s r ∨ ∃ x, wideReg t r = enc s.k x) (r : WideReg) :
    (wideReg t r).length = t.k := by
  obtain hr | ⟨x, hr⟩ := hw r
  · rw [hr, h.len, hk]
  · rw [hr, length_enc, hk]

/-- What a command ends with leaves RESULT's top bit 0 (10_state.md R17). -/
theorem okValue_range (h : Inv s) {v : Int} (hv : OkValue s v) : 0 ≤ v ∧ v < 2 ^ (bitWidth s.k - 1) := by
  have hlt := opP_lt h
  cases hv with
  | zero => exact ⟨le_rfl, by positivity⟩
  | power b e hp => exact ⟨modpow_nonneg b e hp, (modpow_lt b e hp).trans hlt⟩
  | root hc =>
    have hroot := h.canonRange hc
    exact ⟨by omega, by omega⟩

theorem uval_enc_lt_of_range {k : Nat} {v : Int} (h0 : 0 ≤ v) (hv : v < 2 ^ (bitWidth k - 1)) :
    uval (enc k v) < 2 ^ (bitWidth k - 1) := by
  have hp : (2 : Int) ^ (bitWidth k - 1) ≤ 2 ^ bitWidth k := pow_le_pow_right₀ (by decide) (Nat.sub_le _ 1)
  have hval := uval_enc_of_lt h0 (hv.trans_le hp)
  exact_mod_cast hval.trans_lt hv

/-- An engine step keeps the invariant, whether the command goes on or completes. -/
theorem inv_of_engineStep (h : Inv s) (hb : s.busy = true) (hs : engineStep s = .next t) : Inv t := by
  have hf := factsAt_of_engineStep h hs
  have hcase := engineCase_of_engineStep hs
  have hk := hcase.hostFrame.k
  have hlen := len_of_wide h hk hcase.wide
  have hK := hk ▸ h.kRange
  obtain ⟨hdone, hnr, herr, hop⟩ := h.running hb
  cases hcase with
  | worksOn hw =>
    exact inv_of_running hK hlen (hw.busy.trans hb) hw.running (hw.done.trans hdone) (hw.noroot.trans hnr)
      (hw.err.trans herr) (by rw [hw.lastop, hop, hw.opcode]) (by rw [hw.result, hk]; exact h.resultTop) hf
  | ok v l hl hv ht =>
    obtain ⟨h0, hlt⟩ := okValue_range h hv
    subst ht
    exact inv_of_idle hK hlen rfl rfl (by simp [hnr]) (by simp [herr]) (by simp [herr, ErrCode.hardware])
      (uval_enc_lt_of_range h0 hlt)
  | noroot x hc ht =>
    subst ht
    exact inv_of_idle hK hlen rfl rfl (by simp [herr, hop, hc, CtrlState.opcode]) (by simp [herr])
      (by simp [herr, ErrCode.hardware]) (by simp)
  | err e he ht =>
    subst ht
    exact inv_of_idle hK hlen rfl rfl (by simp [hnr]) (by simp [hnr]) he (by simp)

theorem inv_taken (h : Inv s) (rest : List Input) (a : Response) : Inv (taken s rest a) :=
  { h with len := fun r => by rw [wideReg_taken]; exact h.len r }

theorem inv_overrunCmd (h : Inv s) : Inv (overrunCmd s) :=
  { h with len := fun r => by rw [wideReg_overrunCmd]; exact h.len r }

theorem inv_writeWide (h : Inv s) (q : WideReg) (j : Nat) (v : Word) : Inv (writeWide q j v s) := by
  have hlen : ∀ r, (wideReg (writeWide q j v s) r).length = s.k := by
    intro r
    obtain hr | ⟨-, hr⟩ := wideReg_writeWide q j v s r
    · rw [hr, h.len]
    · rw [hr, length_setWord, h.len]
  rw [writeWide_eq] at hlen ⊢
  exact { h with len := hlen }

theorem inv_acceptIllegal (h : Inv s) (op : BitVec 4) : Inv (acceptIllegal op s) :=
  inv_of_idle h.kRange (len_of_wide h rfl fun r => by cases r <;> simp [wideReg]) rfl rfl (by simp) (by simp) rfl
    (by simp)

theorem inv_acceptLegal (h : Inv s) (i : Instr) : Inv (acceptLegal (opField (encode i)) (entryState i) s) := by
  refine inv_of_running h.kRange (fun r => ?_) rfl (by cases i <;> simp [entryState]) rfl rfl rfl
    (by cases i <;> rfl) h.resultTop (by cases i <;> trivial)
  cases r with
  | opa | ln => exact h.len .opa
  | opb | lp => exact h.len .opb
  | ope | le => exact h.len .ope
  | result => exact h.len .result
  | l | odd | z | c | t | root | s | b => exact length_enc ..

theorem inv_resetWith {k : Nat} (h1 : 1 ≤ k) (hk : k ≤ Config.maxK) : Inv (State.resetWith k) :=
  inv_of_idle ⟨h1, hk⟩ (fun r => by cases r <;> exact length_zeroWide k) rfl rfl (by simp) (by simp) rfl (by simp)

theorem inv_resetEvent (h : Inv s) : Inv (resetEvent s) :=
  { inv_resetWith h.kRange.1 h.kRange.2 with len := fun r => by cases r <;> exact length_zeroWide s.k }

end

/-- Settles O43: by the cases of a step; an engine step leaves what its next state needs, and an accept and a completion
leave the outcome clauses. -/
theorem stepKeepsTheMachineInvariant : Obligations.StepKeepsTheMachineInvariant := by
  intro s t h hs
  cases stepCase_of_step hs with
  | quiet a ht => exact ht ▸ inv_taken h _ a
  | operand r j v rest hj hin ht => exact ht ▸ inv_writeWide (inv_taken h rest _) r j v
  | overrun w rest hb hin ht => exact ht ▸ inv_overrunCmd (inv_taken h rest _)
  | illegal w e rest hb he hin ht => exact ht ▸ inv_acceptIllegal (inv_taken h rest _) (opField w)
  | legal i rest hb hin ht => exact ht ▸ inv_acceptLegal (inv_taken h rest _) i
  | engine hb hin hstep => exact inv_of_engineStep (inv_taken h s.inputs.tail s.response) hb hstep
  | reset rest hin ht => exact ht ▸ inv_resetEvent (inv_taken h rest _)

/-- Settles O42: right after reset the engine is idle, and no clause of the loop invariants applies. -/
theorem invariantsHoldAfterReset : Obligations.InvariantsHoldAfterReset := by
  intro k h1 hk
  exact ⟨inv_resetWith h1 hk,
    { rootSquare := by simp [CtrlState.looping], scanPower := by simp, scanMiss := by simp [CtrlState.scanned]
      scanHit := by simp [CtrlState.scanned] },
    { order := by simp [CtrlState.looping], notOne := by simp [CtrlState.scanned], power := by simp }⟩

end Sys2Proof.MachineInvariant

/-! ## STATUS, STATE and PARAM as words -/

namespace Sys2Proof.StatusWords

open Sys2Proof.Machine Sys2Proof.Laws

theorem toNat_append_eq_add {m n : Nat} (x : BitVec m) (y : BitVec n) : (x ++ y).toNat = x.toNat * 2 ^ n + y.toNat := by
  rw [BitVec.toNat_append, ← Nat.shiftLeft_add_eq_or_of_lt y.isLt, Nat.shiftLeft_eq]

/-- STATUS as a number: each field at its bit, the reserved fields 0 (10_state.md R20, R27). -/
theorem toNat_statusWord (s : State) :
    (statusWord s).toNat = s.busy.toNat + 2 * s.done.toNat + 4 * s.noroot.toNat + 8 * s.overrun.toNat +
      2 ^ 8 * s.err.code.toNat + 2 ^ 16 * s.lastop.toNat := by
  simp only [statusWord, toNat_append_eq_add, BitVec.toNat_ofBool, BitVec.toNat_ofNat]
  omega

theorem toNat_stateWord (s : State) : (stateWord s).toNat = s.ctrl.code.toNat := by
  simp only [stateWord, toNat_append_eq_add, BitVec.toNat_ofNat]
  omega

theorem toNat_paramWord (s : State) : (paramWord s).toNat = (BitVec.ofNat 8 s.k).toNat := by
  simp only [paramWord, toNat_append_eq_add, BitVec.toNat_ofNat]
  omega

/-- A field of a word, as a number. -/
theorem extractLsb'_eq_of_toNat {w : Word} {a n : Nat} {x : BitVec n} (h : w.toNat / 2 ^ a % 2 ^ n = x.toNat) :
    w.extractLsb' a n = x :=
  BitVec.eq_of_toNat_eq (by rw [BitVec.extractLsb'_toNat, Nat.shiftRight_eq_div_pow, h])

theorem extractLsb'_eq_zero_of_toNat {w : Word} {a n : Nat} (h : w.toNat / 2 ^ a % 2 ^ n = 0) :
    w.extractLsb' a n = 0#n :=
  extractLsb'_eq_of_toNat (by simpa using h)

theorem getLsbD_eq_of_toNat {w : Word} {a : Nat} {b : Bool} (h : w.toNat / 2 ^ a % 2 = b.toNat) :
    w.getLsbD a = b := by
  rw [← BitVec.testBit_toNat, Nat.testBit_eq_decide_div_mod_eq, h]
  cases b <;> rfl

theorem toNat_errOfStatus (w : Word) : (errOfStatus w).toNat = w.toNat / 2 ^ 8 % 2 ^ 4 := by
  have hmask : (0xF#32).toNat = 2 ^ 4 - 1 := rfl
  rw [errOfStatus, BitVec.toNat_and, hmask, Nat.and_two_pow_sub_one_eq_mod, BitVec.toNat_ushiftRight,
    Nat.shiftRight_eq_div_pow]

/-- Settles O37: each field is read off the words as numbers, since every field below it is smaller than its place. -/
theorem statusWordLayout : Obligations.StatusWordLayout := by
  intro s
  have hstatus := toNat_statusWord s
  have hbusy := s.busy.toNat_lt
  have hdone := s.done.toNat_lt
  have hnoroot := s.noroot.toNat_lt
  have hoverrun := s.overrun.toNat_lt
  have herr := s.err.code.isLt
  have hop := s.lastop.isLt
  have hctrl := s.ctrl.code.isLt
  have hstate := toNat_stateWord s
  have hparam := toNat_paramWord s
  have hK := (BitVec.ofNat 8 s.k).isLt
  refine ⟨getLsbD_eq_of_toNat ?_, getLsbD_eq_of_toNat ?_, getLsbD_eq_of_toNat ?_, getLsbD_eq_of_toNat ?_,
    extractLsb'_eq_zero_of_toNat ?_, extractLsb'_eq_of_toNat ?_, extractLsb'_eq_zero_of_toNat ?_,
    extractLsb'_eq_of_toNat ?_, extractLsb'_eq_zero_of_toNat ?_, extractLsb'_eq_of_toNat ?_,
    extractLsb'_eq_zero_of_toNat ?_, extractLsb'_eq_of_toNat ?_, extractLsb'_eq_zero_of_toNat ?_, ?codes, ?errors⟩
  case codes =>
    intro cn hmem hc
    rw [hstate, hc]
    clear hc
    revert cn
    decide
  case errors =>
    intro en hmem he
    have hcode : en.1.code.toNat = en.2 := by
      clear he
      revert en
      decide
    rw [toNat_errOfStatus]
    rw [he] at hstatus herr
    omega
  all_goals omega

end Sys2Proof.StatusWords

/-! ## Accept and overrun -/

namespace Sys2Proof.Accept

open Sys2Proof.Machine Sys2Proof.Laws Sys2Proof.StepCases Sys2Proof.StatusWords

/-- Settles O6: a busy engine drops the word undecoded. -/
theorem cmdWriteWhileBusyOnlySetsOverrun : Obligations.CmdWriteWhileBusyOnlySetsOverrun := by
  intro s w rest hb hin
  rw [step_of_cmd hin, writeCmd_of_busy (s := taken s rest .written) hb]
  rfl

theorem step_of_illegal_cmd {s : State} {w : Word} {e : DecodeError} {rest : List Input} (hb : s.busy = false)
    (hin : s.inputs = .write offCmd 4 w :: rest) (he : decode w = .error e) :
    step s = .next (acceptIllegal (opField w) (taken s rest .written)) := by
  rw [step_of_cmd hin, writeCmd_of_error (s := taken s rest .written) hb he]

theorem step_of_legal_cmd {s : State} {w : Word} {i : Instr} {rest : List Input} (hb : s.busy = false)
    (hin : s.inputs = .write offCmd 4 w :: rest) (hi : decode w = .ok i) :
    step s = exec i (taken s rest .written) := by
  rw [step_of_cmd hin, writeCmd_of_ok (s := taken s rest .written) hb hi]

/-- Settles O5: the decoder separates the two branches, and each is the accept written out. -/
theorem cmdWriteWhileIdleAccepts : Obligations.CmdWriteWhileIdleAccepts := by
  intro s w rest hb hin
  cases hd : decode w with
  | error e =>
    rw [step_of_illegal_cmd hb hin hd, if_pos ((decode_eq_error_iff w).mp ⟨e, hd⟩), opField_eq]
    rfl
  | ok i =>
    have hlegal := mt (decode_eq_error_iff w).mpr (by simp [hd])
    rw [step_of_legal_cmd hb hin hd, if_neg hlegal, exec_of_idle (s := taken s rest .written) hb]
    obtain rfl := (decode_eq_ok_iff w i).mp hd
    cases i <;> rfl

/-- Settles O7: STATUS as a number, of the state that an illegal word's accept leaves. -/
theorem illegalWordStatus : Obligations.IllegalWordStatus := by
  intro s w rest e hb hin he
  refine ⟨_, step_of_illegal_cmd hb hin he, ?_, by simp [toNat_stateWord, CtrlState.code], by simp⟩
  rw [toNat_statusWord]
  simp only [acceptIllegal_busy, acceptIllegal_done, acceptIllegal_noroot, acceptIllegal_overrun, acceptIllegal_err,
    acceptIllegal_lastop, toNat_opField, Bool.toNat_true, Bool.toNat_false, ErrCode.code, BitVec.toNat_ofNat]
  omega

/-- The word that `withFetchWord` places is the given one. -/
theorem tableWord_toNat (w : Word) : tableWord 32 w.toNat = w :=
  BitVec.eq_of_toNat_eq (by simp only [tableWord, BitVec.toNat_ofNat]; omega)

/-- Settles O4: the event is a CMD write of the command's word on an idle engine, as it stands or as it was placed. -/
theorem stepRunsTheDecodedCommand : Obligations.StepRunsTheDecodedCommand := by
  intro s w i hi
  refine ⟨fun rest hb hin => step_of_legal_cmd hb hin hi, ?_⟩
  rw [State.withFetchWord, tableWord_toNat]
  exact step_of_legal_cmd (s := placeCommand s w) rfl rfl hi

/-- Settles O27: a command word is dropped, or accepted by `acceptLegal`, which writes neither operands nor RESULT. -/
theorem commandWordFrame : Obligations.CommandWordFrame := by
  intro i s t h
  constructor
  · intro hb
    obtain rfl := Host.Outcome.next.inj ((exec_of_busy hb i).symm.trans h)
    rfl
  · intro hb
    obtain rfl := Host.Outcome.next.inj ((exec_of_idle hb i).symm.trans h)
    exact ⟨rfl, rfl, rfl, rfl, rfl, rfl, rfl, rfl⟩

end Sys2Proof.Accept

/-! ## Who writes what: each statement by the cases of a step -/

namespace Sys2Proof.Writers

open Sys2Proof.Machine Sys2Proof.Laws Sys2Proof.StepCases Sys2Proof.EngineCases

/-- Settles O29: of the cases of a step only an operand write and reset change an operand register. -/
theorem operandsChangeOnlyByHostWriteOrReset : Obligations.OperandsChangeOnlyByHostWriteOrReset := by
  intro s t r hr hs hne
  have hkept : ¬ (t.opa = s.opa ∧ t.opb = s.opb ∧ t.ope = s.ope) := by
    rintro ⟨ha, hb, he⟩
    simp only [List.mem_cons, List.not_mem_nil, or_false] at hr
    obtain rfl | rfl | rfl := hr
    · exact hne ha
    · exact hne hb
    · exact hne he
  cases stepCase_of_step hs with
  | quiet a ht => subst ht; exact absurd ⟨rfl, rfl, rfl⟩ hkept
  | operand q j v rest hj hin ht =>
    subst ht
    obtain heq | ⟨rfl, heq⟩ := wideReg_writeWide q j v (taken s rest .written) r
    · exact absurd (heq.trans (wideReg_taken ..)) hne
    · exact .inr ⟨j, v, rest, hj, hin, by rw [heq, wideReg_taken]⟩
  | overrun w rest hb hin ht => subst ht; exact absurd ⟨rfl, rfl, rfl⟩ hkept
  | illegal w e rest hb he hin ht => subst ht; exact absurd ⟨rfl, rfl, rfl⟩ hkept
  | legal i rest hb hin ht => subst ht; exact absurd ⟨rfl, rfl, rfl⟩ hkept
  | engine hb hin hstep =>
    have hf := (engineCase_of_engineStep hstep).hostFrame
    exact absurd ⟨hf.opa, hf.opb, hf.ope⟩ hkept
  | reset rest hin ht => exact .inl ⟨rest, hin⟩

/-- Settles O30: of the cases of a step only a completing engine step, an illegal word and reset write RESULT, and only
a legal word and reset the latches. -/
theorem resultAndLatchWriters : Obligations.ResultAndLatchWriters := by
  intro s t hs
  cases stepCase_of_step hs with
  | quiet a ht => subst ht; simp [taken]
  | operand r j v rest hj hin ht => subst ht; simp [taken]
  | overrun w rest hb hin ht => subst ht; simp [taken]
  | illegal w e rest hb he hin ht =>
    subst ht
    exact ⟨fun _ => .inr (.inl ⟨hb, ⟨w, rest, e, hin, he⟩, rfl, rfl, rfl⟩), by simp [taken]⟩
  | legal i rest hb hin ht =>
    subst ht
    exact ⟨by simp [taken], fun _ => .inl ⟨hb, ⟨i, rest, hin⟩, rfl, rfl, rfl, rfl⟩⟩
  | engine hb hin hstep =>
    have hcase := engineCase_of_engineStep hstep
    have hf := hcase.hostFrame
    refine ⟨fun hne => .inl ⟨hb, hin, ?_⟩, fun hne => ?_⟩
    · obtain ⟨-, -, hkept⟩ | ⟨hbusy, hdone, hctrl, -⟩ := hcase.goesOn_or_completes
      · exact absurd hkept hne
      · exact ⟨hbusy, hdone, hctrl⟩
    · obtain hne | hne | hne := hne
      · exact absurd hf.ln hne
      · exact absurd hf.lp hne
      · exact absurd hf.le hne
  | reset rest hin ht => exact ⟨fun _ => .inr (.inr ⟨rest, hin⟩), fun _ => .inr ⟨rest, hin⟩⟩

/-- Settles O31: of the cases of a step only accepts, overruns, resets and TS_LEGENDRE's completion write these
flags. -/
theorem flagWriters : Obligations.FlagWriters := by
  intro s t hs
  cases stepCase_of_step hs with
  | quiet a ht => subst ht; simp +contextual [taken]
  | operand r j v rest hj hin ht => subst ht; simp +contextual [taken]
  | overrun w rest hb hin ht =>
    subst ht
    exact ⟨by simp +contextual [taken], by simp +contextual [taken], fun _ _ => ⟨hb, w, rest, hin⟩, by simp,
      by simp [taken]⟩
  | illegal w e rest hb he hin ht =>
    subst ht
    exact ⟨by simp, fun _ _ => .inl ⟨hb, w, rest, hin⟩, by simp, fun _ _ => .inl ⟨hb, w, rest, hin⟩,
      fun _ => .inl ⟨hb, w, rest, hin, by simp [opField_eq]⟩⟩
  | legal i rest hb hin ht =>
    subst ht
    exact ⟨by simp, fun _ _ => .inl ⟨hb, _, rest, hin⟩, by simp, fun _ _ => .inl ⟨hb, _, rest, hin⟩,
      fun _ => .inl ⟨hb, _, rest, hin, by simp [opField_eq]⟩⟩
  | engine hb hin hstep =>
    have hcase := engineCase_of_engineStep hstep
    have hover : t.overrun = s.overrun := hcase.hostFrame.overrun
    have hop : t.lastop = s.lastop := hcase.hostFrame.lastop
    have hnr : t.noroot = s.noroot ∨ s.ctrl = .tsLegendre ∧ t.noroot = true ∧ t.done = true ∧ t.busy = false := by
      obtain ⟨-, hkept, -⟩ | ⟨hbusy, hdone, -, hkept | ⟨hc, hrise⟩⟩ := hcase.goesOn_or_completes
      · exact .inl hkept
      · exact .inl hkept
      · exact .inr ⟨hc, hrise, hdone, hbusy⟩
    obtain hnr | ⟨hc, hrise, hdone, hbusy⟩ := hnr
    · simp +contextual [hnr, hover, hop]
    · exact ⟨fun _ _ => ⟨hb, hc, hdone, hbusy⟩, by simp [hrise], by simp +contextual [hover],
        by simp +contextual [hover], by simp [hop]⟩
  | reset rest hin ht =>
    subst ht
    exact ⟨by simp, fun _ _ => .inr ⟨rest, hin⟩, by simp, fun _ _ => .inr ⟨rest, hin⟩, fun _ => .inr ⟨rest, hin⟩⟩

/-- Settles O32: of the cases of a step only a legal word's accept sets BUSY, and only completions and reset clear
it. -/
theorem busyRisesAtAcceptAndFallsAtCompletion : Obligations.BusyRisesAtAcceptAndFallsAtCompletion := by
  intro s t hs
  refine and_assoc.mp ⟨?_, engineTurn_of_idle⟩
  cases stepCase_of_step hs with
  | quiet a ht => subst ht; simp +contextual [taken]
  | operand r j v rest hj hin ht => subst ht; simp +contextual [taken]
  | overrun w rest hb hin ht => subst ht; simp +contextual [taken]
  | illegal w e rest hb he hin ht => subst ht; simp [hb]
  | legal i rest hb hin ht =>
    subst ht
    exact ⟨fun _ _ => ⟨_, i, rest, hin, rfl⟩, by simp⟩
  | engine hb hin hstep =>
    refine ⟨by simp [hb], fun _ hfall => .inl ?_⟩
    obtain ⟨hkept, -, -⟩ | ⟨-, hdone, hctrl, -⟩ := (engineCase_of_engineStep hstep).goesOn_or_completes
    · exact absurd ((hkept.trans hb).symm.trans hfall) (by decide)
    · exact ⟨hdone, hctrl, hin⟩
  | reset rest hin ht =>
    subst ht
    exact ⟨by simp, fun _ _ => .inr ⟨rest, hin⟩⟩

end Sys2Proof.Writers

/-! ## Reset -/

namespace Sys2Proof.Reset

open Sys2Proof.Machine Sys2Proof.Laws Sys2Proof.StepCases

@[simp] theorem wideReg_resetEvent (s : State) (r : WideReg) : wideReg (resetEvent s) r = zeroWide s.k := by
  cases r <;> rfl

@[simp] theorem getWord_zeroWide (k j : Nat) : getWord (zeroWide k) j = 0#32 := by
  simp [getWord, zeroWide]

/-- Every word of the window but PARAM reads 0 after reset (10_state.md R38). -/
theorem readTarget_resetEvent (s : State) (g : Target) :
    readTarget (resetEvent s) g = if g = .param then paramWord s else 0#32 := by
  cases g with
  | param => rfl
  | wide r j => simp [readTarget]
  | status => simp [readTarget, statusWord, ErrCode.code]
  | state => simp [readTarget, stateWord, CtrlState.code]
  | cmd | m | i | exponent | reserved => rfl

/-- Settles O40: the reset event's state, word by word. -/
theorem resetClearsEveryRegister : Obligations.ResetClearsEveryRegister := by
  intro s rest hin
  exact ⟨resetEvent { s with inputs := rest }, step_cons hin, rfl, rfl, rfl, rfl, rfl, engineTurn_of_idle rfl,
    fun r => by simp, readTarget_resetEvent _⟩

end Sys2Proof.Reset

/-! ## The bytes of a command -/

namespace Sys2Proof.Bytes

open Sys2Proof.StepCases Sys2Proof.StatusWords

theorem toNat_byteLane (b : Nat) (w : Word) : (byteLane b w).toNat = w.toNat / 2 ^ (8 * b) % 2 ^ 8 := by
  rw [byteLane, BitVec.extractLsb'_toNat, Nat.shiftRight_eq_div_pow]

theorem toNat_wordOfBytes (b0 b1 b2 b3 : Byte) :
    (wordOfBytes b0 b1 b2 b3).toNat = b0.toNat + 2 ^ 8 * b1.toNat + 2 ^ 16 * b2.toNat + 2 ^ 24 * b3.toNat := by
  simp only [wordOfBytes, toNat_append_eq_add]
  omega

/-- The host builds a bus word again from its four byte lanes (20_memory.md R43). -/
theorem wordOfBytes_byteLane (w : Word) :
    wordOfBytes (byteLane 0 w) (byteLane 1 w) (byteLane 2 w) (byteLane 3 w) = w := by
  have hw := w.isLt
  apply BitVec.eq_of_toNat_eq
  simp only [toNat_wordOfBytes, toNat_byteLane]
  omega

/-- The byte lanes of the word built from four bytes are these bytes (20_memory.md R43). -/
theorem bytesOfWord_wordOfBytes (b0 b1 b2 b3 : Byte) : bytesOfWord (wordOfBytes b0 b1 b2 b3) = [b0, b1, b2, b3] := by
  have hlane : ∀ {b : Nat} {x : Byte}, (wordOfBytes b0 b1 b2 b3).toNat / 2 ^ (8 * b) % 2 ^ 8 = x.toNat →
      byteLane b (wordOfBytes b0 b1 b2 b3) = x :=
    fun h => BitVec.eq_of_toNat_eq ((toNat_byteLane ..).trans h)
  have h0 := b0.isLt
  have h1 := b1.isLt
  have h2 := b2.isLt
  have hword := toNat_wordOfBytes b0 b1 b2 b3
  rw [bytesOfWord, hlane (x := b0) (by omega), hlane (x := b1) (by omega), hlane (x := b2) (by omega),
    hlane (x := b3) (by omega)]

/-- Four bytes are decoded exactly where their word is, whatever follows them (30_encoding.md R60). -/
theorem decodeBytes_cons_eq_ok_iff {b0 b1 b2 b3 : Byte} {bs rest : List Byte} {i : Instr} :
    decodeBytes (b0 :: b1 :: b2 :: b3 :: bs) = .ok (i, rest) ↔
      decode (wordOfBytes b0 b1 b2 b3) = .ok i ∧ bs = rest := by
  cases hd : decode (wordOfBytes b0 b1 b2 b3) <;> simp [decodeBytes, hd]

theorem exists_bytes_of_decodeBytes {bs rest : List Byte} {i : Instr} (h : decodeBytes bs = .ok (i, rest)) :
    ∃ b0 b1 b2 b3 tail, bs = b0 :: b1 :: b2 :: b3 :: tail := by
  unfold decodeBytes at h
  split at h
  · exact ⟨_, _, _, _, _, rfl⟩
  · cases h

/-- The bytes that decode to a command are its word's bytes, the lowest address first, and what follows them. -/
theorem decodeBytes_eq_ok_iff {bs rest : List Byte} {i : Instr} :
    decodeBytes bs = .ok (i, rest) ↔ bs = encodeBytes i ++ rest := by
  constructor
  · intro h
    obtain ⟨b0, b1, b2, b3, tail, rfl⟩ := exists_bytes_of_decodeBytes h
    obtain ⟨hd, rfl⟩ := decodeBytes_cons_eq_ok_iff.mp h
    rw [encodeBytes, ← (decode_eq_ok_iff _ i).mp hd, bytesOfWord_wordOfBytes]
    rfl
  · rintro rfl
    refine decodeBytes_cons_eq_ok_iff.mpr ⟨?_, rfl⟩
    rw [wordOfBytes_byteLane]
    exact (decode_eq_ok_iff _ i).mpr rfl

/-- Settles O3: bytes and word determine each other, and the decoder accepts a command's word alone. -/
theorem decodeBytesInvertsEncodeBytes : Obligations.DecodeBytesInvertsEncodeBytes :=
  ⟨fun _ _ _ => decodeBytes_eq_ok_iff.mpr rfl, fun _ _ _ => decodeBytes_eq_ok_iff.mp⟩

end Sys2Proof.Bytes

/-! ## What the bus answers, and that the engine never gets stuck -/

namespace Sys2Proof.Progress

open Sys2Proof.Machine Sys2Proof.Laws Sys2Proof.StepCases Sys2Proof.EngineCases Sys2Proof.MachineInvariant

/-- A step's result is a next state. -/
def Answers (r : Result) : Prop := ∃ t, r = .next t

theorem Answers.next (t : State) : Answers (.next t) := ⟨t, rfl⟩

theorem Answers.ite {c : Prop} [Decidable c] {x y : Result} (hx : c → Answers x) (hy : ¬ c → Answers y) :
    Answers (if c then x else y) := by
  split
  · exact hx ‹_›
  · exact hy ‹_›

/-- The core is defined for a positive modulus (40_modpow.md R67). -/
theorem Answers.withModulus {p : Int} {r : Result} (hp : 0 < p) (hr : Answers r) : Answers (withModulus p r) := by
  rwa [withModulus_of_pos hp]

/-! ### Host accesses -/

theorem writeTarget_answers (v : Word) (s : State) (g : Target) : Answers (writeTarget v s g) := by
  obtain ⟨-, hw⟩ | ⟨r, j, -, hw⟩ | ⟨-, -, hw⟩ := writeTarget_next v s g
  · obtain ⟨t, ht, -⟩ := writeCmd_eq v s
    exact ⟨t, hw.trans ht⟩
  · exact ⟨_, hw⟩
  · exact ⟨_, hw⟩

theorem hostRead_answers {off : Offset} {size : Nat} (hw : size = 4 ∧ off.toNat % 4 = 0) (s : State) :
    Answers (hostRead off size s) :=
  ⟨_, (hostRead_eq ..).trans (if_pos hw)⟩

theorem hostRead_refused {off : Offset} {size : Nat} (hw : ¬ (size = 4 ∧ off.toNat % 4 = 0)) (s : State) :
    hostRead off size s = .refused (.busError off size) :=
  (hostRead_eq ..).trans (if_neg hw)

theorem hostWrite_answers {off : Offset} {size : Nat} (hw : size = 4 ∧ off.toNat % 4 = 0) (v : Word) (s : State) :
    Answers (hostWrite off size v s) := by
  rw [hostWrite_eq, if_pos hw]
  exact writeTarget_answers ..

theorem hostWrite_refused {off : Offset} {size : Nat} (hw : ¬ (size = 4 ∧ off.toNat % 4 = 0)) (v : Word) (s : State) :
    hostWrite off size v s = .refused (.busError off size) :=
  (hostWrite_eq ..).trans (if_neg hw)

/-- Settles O36: the window answers exactly the aligned 32-bit accesses, CMD writes among them. -/
theorem onlyAlignedWordAccessesAreAnswered : Obligations.OnlyAlignedWordAccessesAreAnswered := by
  intro s off size v rest hin
  obtain hin | hin := hin <;> rw [step_cons hin]
  · exact ⟨fun hw => hostRead_refused hw _, fun hw => hostRead_answers hw _⟩
  · exact ⟨fun hw => hostWrite_refused hw v _, fun hw => hostWrite_answers hw v _⟩

/-! ### The engine's step -/

section

variable {s t : State} (h : Inv s)
include h

/-- A busy engine has a step: the modulus is positive wherever the core is called, and TS_BCOMP is entered with `I < M`
alone (42_tonelli_shanks.md R83). -/
theorem engineStep_answers (hb : s.busy = true) : Answers (engineStep s) := by
  have hf := factsAt h
  have pos (hd : AtDecomp s) : 0 < opP s := by
    have := hd.modulus
    omega
  cases hc : s.ctrl <;> simp only [engineStep, hc] <;> rw [hc] at hf
  case idle => exact absurd (h.busyCtrl.mpr hc) (by simp [hb])
  case mpExec => exact ⟨_, stepMpExec_eq s⟩
  case lgExec => exact ⟨_, stepLgExec_eq s⟩
  case tsValidate => exact .ite (fun _ => .next _) fun _ => .next _
  case tsZero => exact .ite (fun _ => .next _) fun _ => .next _
  case tsLegendre =>
    obtain ⟨hp, -⟩ := hf
    exact .ite (fun _ => .next _) fun hp0 => .withModulus (by omega) (.ite (fun _ => .next _) fun _ => .next _)
  case tsDecomp => exact .ite (fun _ => .next _) fun _ => .ite (fun _ => .next _) fun _ => .next _
  case tsFast => exact .withModulus (pos hf.toAtDecomp) (.next _)
  case tsWscan => exact .ite (fun _ => .next _) fun _ => .ite (fun _ => .next _) fun _ => .next _
  case tsInit => exact .withModulus (pos hf.toAtDecomp) (.next _)
  case tsLoop => exact .withModulus (pos hf.toAtDecomp) (.ite (fun _ => .next _) fun _ => .next _)
  case tsIscan =>
    exact .ite (fun _ => .next _) fun _ =>
      .withModulus (pos hf.toAtDecomp) (.ite (fun _ => .next _) fun _ => .next _)
  case tsBcomp =>
    exact .ite (fun hle => absurd hf.i_lt (by omega)) fun _ => .withModulus (pos hf.toAtDecomp) (.next _)
  case tsUpdate => exact .withModulus (pos hf.toAtDecomp) (.next _)
  case tsCanon => exact ⟨_, stepCanon_eq s⟩

end

/-- How an engine step changes the state: the command completes, STATE moves on, or the counter of the state's loop
moves, which is EXPONENT, Z or I. -/
inductive Moves (s t : State) : Prop where
  | completes (h : t.busy ≠ s.busy)
  | ctrl (h : t.ctrl ≠ s.ctrl)
  | exponent (h : t.exponent ≠ s.exponent)
  | candidate (h : uval t.z ≠ uval s.z)
  | scan (h : t.i ≠ s.i)

theorem Moves.ne {s t : State} (h : Moves s t) : t ≠ s := by
  rintro rfl
  cases h <;> contradiction

/-- An engine step of a busy engine moves something in every controller state. -/
theorem moves_of_engineStep {s t : State} (h : Inv s) (hb : s.busy = true) (hs : engineStep s = .next t) :
    Moves s t := by
  have completes {u : State} (hu : u.busy = false) : Moves s u := .completes (by simp [hu, hb])
  cases hc : s.ctrl <;> simp only [engineStep, hc] at hs
  case idle => cases hs
  case mpExec =>
    obtain rfl := Host.Outcome.next.inj ((stepMpExec_eq s).symm.trans hs)
    split_ifs <;> exact completes rfl
  case lgExec =>
    obtain rfl := Host.Outcome.next.inj ((stepLgExec_eq s).symm.trans hs)
    split_ifs <;> exact completes rfl
  case tsValidate =>
    obtain ⟨-, rfl⟩ | ⟨-, rfl⟩ := stepValidate_next hs
    · exact completes rfl
    · exact .ctrl (by simp [hc])
  case tsZero =>
    obtain ⟨-, rfl⟩ | ⟨-, rfl⟩ := stepZero_next hs
    · exact completes rfl
    · exact .ctrl (by simp [hc])
  case tsLegendre =>
    obtain ⟨-, rfl⟩ | ⟨-, -, rfl⟩ | ⟨-, -, rfl⟩ := stepLegendre_next hs
    · exact completes rfl
    · exact completes rfl
    · exact .ctrl (by simp [hc])
  case tsDecomp =>
    obtain ⟨-, rfl⟩ | ⟨-, -, rfl⟩ | ⟨-, -, rfl⟩ := stepDecomp_next hs
    · exact .exponent (add_ne_left.mpr (by decide))
    · exact .ctrl (by simp [hc])
    · exact .ctrl (by simp [hc])
  case tsFast =>
    obtain ⟨-, rfl⟩ := stepFast_next hs
    exact .ctrl (by simp [hc])
  case tsWscan =>
    obtain ⟨-, rfl⟩ | ⟨-, -, rfl⟩ | ⟨hlt, -, rfl⟩ := stepWscan_next hs
    · exact completes rfl
    · exact .ctrl (by simp [hc])
    · have hz : (uval (enc s.k ((uval s.z : Int) + 1)) : Int) = uval s.z + 1 :=
        uval_enc_of_le_opP h (by positivity) hlt
      exact .candidate (show uval (enc s.k ((uval s.z : Int) + 1)) ≠ uval s.z by omega)
  case tsInit =>
    obtain ⟨-, rfl⟩ := stepInit_next hs
    exact .ctrl (by simp [hc])
  case tsLoop =>
    obtain ⟨-, ⟨-, rfl⟩ | ⟨-, rfl⟩⟩ := stepLoop_next hs <;> exact .ctrl (by simp [hc])
  case tsIscan =>
    obtain ⟨-, rfl⟩ | ⟨-, -, ⟨-, rfl⟩ | ⟨-, rfl⟩⟩ := stepIscan_next hs
    · exact completes rfl
    · exact .ctrl (by simp [hc])
    · exact .scan (add_ne_left.mpr (by decide))
  case tsBcomp =>
    obtain ⟨-, -, rfl⟩ := stepBcomp_next hs
    exact .ctrl (by simp [hc])
  case tsUpdate =>
    obtain ⟨-, rfl⟩ := stepUpdate_next hs
    exact .ctrl (by simp [hc])
  case tsCanon =>
    obtain rfl := Host.Outcome.next.inj ((stepCanon_eq s).symm.trans hs)
    exact completes rfl

/-! ### The machine's step -/

theorem engineTurn_of_busy {s : State} (hb : s.busy = true) : engineTurn s = engineStep s := by
  simp [engineTurn, hb]

theorem engineTurn_answers {s : State} (h : Inv s) : Answers (engineTurn s) :=
  .ite (engineStep_answers h) fun _ => .next s

/-- A well-formed event is answered, and an ill-formed access is refused. -/
theorem runInput_answers_or_refuses {s : State} (h : Inv s) (x : Input) :
    Answers (runInput x s) ∨ x.wellFormed = false ∧ ∃ r, runInput x s = .refused r := by
  cases x with
  | read off size =>
    by_cases hw : size = 4 ∧ off.toNat % 4 = 0
    · exact .inl (hostRead_answers hw s)
    · exact .inr ⟨decide_eq_false hw, _, hostRead_refused hw s⟩
  | write off size v =>
    by_cases hw : size = 4 ∧ off.toNat % 4 = 0
    · exact .inl (hostWrite_answers hw v s)
    · exact .inr ⟨decide_eq_false hw, _, hostWrite_refused hw v s⟩
  | engine => exact .inl (engineTurn_answers h)
  | reset => exact .inl (.next _)

/-- A step of the machine is answered, or refused for the ill-formed access that comes next. -/
theorem step_answers_or_refuses {s : State} (h : Inv s) :
    Answers (step s) ∨
      (∃ x rest, s.inputs = x :: rest ∧ x.wellFormed = false) ∧ ∃ r, step s = .refused r := by
  cases hin : s.inputs with
  | nil =>
    rw [step_nil hin]
    exact .inl (.ite (fun _ => .next s) fun _ => engineTurn_answers h)
  | cons x rest =>
    rw [step_cons hin]
    obtain ha | ⟨hx, hr⟩ := runInput_answers_or_refuses (inv_taken h rest s.response) x
    · exact .inl ha
    · exact .inr ⟨⟨x, rest, rfl, hx⟩, hr⟩

/-- Settles O46: a busy engine's step is answered and moves something, and a step that is not answered is refused for an
ill-formed access. -/
theorem theEngineNeverGetsStuck : Obligations.TheEngineNeverGetsStuck := by
  intro s h
  refine ⟨fun hb => ?_, fun f hf => ?_, fun r hr => ?_⟩
  · obtain ⟨t, ht⟩ := engineStep_answers h hb
    exact ⟨t, (engineTurn_of_busy hb).trans ht, (moves_of_engineStep h hb ht).ne⟩
  · obtain ⟨t, ht⟩ | ⟨-, r, hr⟩ := step_answers_or_refuses h
    · cases hf.symm.trans ht
    · cases hf.symm.trans hr
  · obtain ⟨t, ht⟩ | ⟨hx, -⟩ := step_answers_or_refuses h
    · cases hr.symm.trans ht
    · exact hx

end Sys2Proof.Progress

/-! ## The register window: what an offset names, what a read answers, what a write changes -/

namespace Sys2Proof.Window

open Sys2Proof.Machine Sys2Proof.Laws Sys2Proof.StepCases

/-! ### Bus addresses -/

@[simp] theorem offsetOfBus_busAddress (off : Offset) : offsetOfBus (busAddress off) = some off := by
  have hlt := off.isLt
  have hin : Config.engineBase ≤ busAddress off ∧ busAddress off < Config.engineBase + Config.windowBytes := by
    simp only [busAddress, Config.windowBytes]
    omega
  rw [offsetOfBus, if_pos hin, busAddress, Nat.add_sub_cancel_left, BitVec.ofNat_toNat, BitVec.setWidth_eq]

theorem offsetOfBus_eq_none_iff (a : Nat) :
    offsetOfBus a = none ↔ a < Config.engineBase ∨ Config.engineBase + Config.windowBytes ≤ a := by
  unfold offsetOfBus
  split
  · simp only [reduceCtorEq, false_iff]
    omega
  · simp only [true_iff]
    omega

/-- Settles O39: an offset is the distance from the window's base, and lies below its 4096 bytes. -/
theorem windowAddresses : Obligations.WindowAddresses := ⟨offsetOfBus_busAddress, offsetOfBus_eq_none_iff⟩

/-! ### What an aligned offset names (20_memory.md R45) -/

theorem wideBase_le (r : WideReg) : (wideBase r).toNat ≤ 0xF00 := by cases r <;> decide

/-- The wide registers' windows start at multiples of 0x100, above window 0 (10_state.md R15). -/
theorem wideBase_aligned (r : WideReg) : (wideBase r).toNat % 256 = 0 ∧ 256 ≤ (wideBase r).toNat := by
  cases r <;> decide

theorem toNat_wideOffset (r : WideReg) {j : Nat} (hj : j < 64) :
    (wideOffset r j).toNat = (wideBase r).toNat + 4 * j := by
  have hbase := wideBase_le r
  simp only [wideOffset, BitVec.toNat_add, BitVec.toNat_ofNat]
  omega

theorem eq_wideOffset {off : Offset} {r : WideReg} {j : Nat} (hj : j < 64)
    (h : off.toNat = (wideBase r).toNat + 4 * j) : off = wideOffset r j :=
  BitVec.eq_of_toNat_eq (h.trans (toNat_wideOffset r hj).symm)

/-- An aligned offset is word `j` of window 0 or of a wide register's window. -/
theorem narrow_or_wide {off : Offset} (halign : off.toNat % 4 = 0) :
    (∃ j, j < 64 ∧ off.toNat = 4 * j) ∨ ∃ r j, j < 64 ∧ off = wideOffset r j := by
  have hlt := off.isLt
  cases hwin : wideOfWindow (off.toNat / 256) with
  | none =>
    have hzero := window_of_wideOfWindow_eq_none hwin
    exact .inl ⟨off.toNat / 4, by omega, by omega⟩
  | some r =>
    have hbase := wideBase_of_wideOfWindow hwin
    exact .inr ⟨r, off.toNat % 256 / 4, by omega, eq_wideOffset (by omega) (by omega)⟩

/-- A word of window 0 is one of the narrow registers' or reserved. -/
theorem target_of_narrow {k j : Nat} {off : Offset} (hj : j < 64) (h : off.toNat = 4 * j) :
    target k off = narrowTarget j := by
  have hwin : off.toNat / 256 = 0 := by omega
  have hword : off.toNat % 256 / 4 = j := by omega
  simp only [target, hwin, hword, wideOfWindow]

theorem narrowTarget_eq_reserved : ∀ {j : Nat}, 7 ≤ j → narrowTarget j = .reserved
  | _ + 7, _ => rfl

theorem narrowTarget_ne_reserved : ∀ {n : Nat}, n < 7 → narrowTarget n ≠ .reserved := by decide

theorem narrowTarget_eq_reserved_iff (j : Nat) : narrowTarget j = .reserved ↔ 7 ≤ j :=
  ⟨fun h => not_lt.mp fun hlt => narrowTarget_ne_reserved hlt h, narrowTarget_eq_reserved⟩

/-- The seven narrow registers stand at different words. -/
theorem narrowTarget_eq_iff {j n : Nat} (hn : n < 7) : narrowTarget j = narrowTarget n ↔ j = n := by
  have hinj : ∀ a < 7, ∀ b < 7, narrowTarget a = narrowTarget b → a = b := by decide
  refine ⟨fun h => ?_, congrArg narrowTarget⟩
  obtain hj | hj := lt_or_ge j 7
  · exact hinj j hj n hn h
  · exact absurd (h.symm.trans (narrowTarget_eq_reserved hj)) (narrowTarget_ne_reserved hn)

section

variable {k : Nat} {off : Offset} (halign : off.toNat % 4 = 0)
include halign

/-- A narrow register is named by its own offset alone. -/
theorem target_eq_narrowTarget_iff {n : Nat} (hn : n < 7) :
    target k off = narrowTarget n ↔ off = BitVec.ofNat 12 (4 * n) := by
  have hoff : off = BitVec.ofNat 12 (4 * n) ↔ off.toNat = 4 * n := by
    rw [← BitVec.toNat_inj, BitVec.toNat_ofNat, Nat.mod_eq_of_lt (by omega)]
  rw [hoff]
  obtain ⟨j, hj, hj4⟩ | ⟨r, j, hj, rfl⟩ := narrow_or_wide halign
  · rw [target_of_narrow hj hj4, narrowTarget_eq_iff hn]
    omega
  · obtain ⟨-, hbase⟩ := wideBase_aligned r
    rw [target_wideOffset k r j hj, toNat_wideOffset r hj]
    refine iff_of_false (fun h => ?_) (by omega)
    split at h
    · exact narrowTarget_ne_wide n r j h.symm
    · exact narrowTarget_ne_reserved hn h.symm

/-- Word `j` of a wide register is named by `base + 4·j` alone, for `j < K` (20_memory.md R42). -/
theorem target_eq_wide_iff (hk : k ≤ Config.maxK) (r : WideReg) (j : Nat) :
    target k off = .wide r j ↔ j < k ∧ off.toNat = (wideBase r).toNat + 4 * j := by
  have hmax : k ≤ 64 := hk
  constructor
  · intro h
    obtain ⟨hj, rfl⟩ := offset_of_target_wide halign h
    have hbase := wideBase_le r
    refine ⟨hj, ?_⟩
    rw [BitVec.toNat_ofNat]
    omega
  · rintro ⟨hj, hoff⟩
    rw [eq_wideOffset (by omega) hoff, target_wideOffset k r j (by omega), if_pos hj]

/-- The reserved words: window 0 above EXPONENT, and the words from K on of the other windows. -/
theorem target_eq_reserved_iff :
    target k off = .reserved ↔
      0x01C ≤ off.toNat ∧ off.toNat ≤ 0x0FF ∨ 0x100 ≤ off.toNat ∧ k ≤ off.toNat % 0x100 / 4 := by
  obtain ⟨j, hj, hj4⟩ | ⟨r, j, hj, rfl⟩ := narrow_or_wide halign
  · rw [target_of_narrow hj hj4, narrowTarget_eq_reserved_iff]
    omega
  · obtain ⟨hmod, hbase⟩ := wideBase_aligned r
    have hword : (wideOffset r j).toNat % 0x100 / 4 = j := by
      rw [toNat_wideOffset r hj]
      omega
    rw [target_wideOffset k r j hj, hword, toNat_wideOffset r hj]
    split
    · exact iff_of_false (fun h => by cases h) (by omega)
    · exact iff_of_true rfl (by omega)

end

/-! ### Accesses of aligned words -/

section

variable {off : Offset} (halign : off.toNat % 4 = 0)
include halign

theorem hostRead_word (s : State) :
    hostRead off 4 s = .next { s with response := .data (readTarget s (target s.k off)) } :=
  (hostRead_eq ..).trans (if_pos ⟨rfl, halign⟩)

theorem hostWrite_word (v : Word) (s : State) :
    hostWrite off 4 v s = writeTarget v { s with response := .written } (target s.k off) :=
  (hostWrite_eq ..).trans (if_pos ⟨rfl, halign⟩)

end

/-- Settles O33: the offset's window and word decide what it names, and the reserved words have no register. -/
theorem offsetDecoding : Obligations.OffsetDecoding := by
  intro k off hk halign
  refine ⟨target_eq_narrowTarget_iff halign (n := 0) (by decide), target_eq_narrowTarget_iff halign (n := 1) (by decide),
    target_eq_narrowTarget_iff halign (n := 2) (by decide), target_eq_narrowTarget_iff halign (n := 3) (by decide),
    target_eq_narrowTarget_iff halign (n := 4) (by decide), target_eq_narrowTarget_iff halign (n := 5) (by decide),
    target_eq_narrowTarget_iff halign (n := 6) (by decide), target_eq_wide_iff halign hk,
    target_eq_reserved_iff halign, fun s v hs hres => ?_⟩
  subst hs
  rw [hostRead_word halign, hostWrite_word halign, hres]
  exact ⟨rfl, rfl⟩

/-! ### Reads (20_memory.md R48) -/

/-- No read of the window sees the list of events or the bus's last answer. -/
@[simp] theorem readTarget_taken (s : State) (rest : List Input) (a : Response) (g : Target) :
    readTarget (taken s rest a) g = readTarget s g := by
  cases g with
  | wide r j => simp only [readTarget, wideReg_taken]
  | param | cmd | status | state | m | i | exponent | reserved => rfl

theorem step_of_read {s : State} {off : Offset} {rest : List Input} (hin : s.inputs = .read off 4 :: rest)
    (halign : off.toNat % 4 = 0) : step s = .next (taken s rest (.data (readTarget s (target s.k off)))) := by
  rw [step_cons hin, runInput, hostRead_word halign, ← readTarget_taken s rest s.response]
  rfl

/-- Settles O34: the answer is the named target's word, and the state changes in the event and its answer alone. -/
theorem readsHaveNoSideEffect : Obligations.ReadsHaveNoSideEffect := by
  intro s off rest hin halign
  refine ⟨_, step_of_read hin halign, ?_, ?_, ?_, ?_, ?_, ?_, ?_, fun hlo hhi => ?reserved, fun r j hj hoff => ?wide⟩
  case reserved =>
    rw [(target_eq_reserved_iff halign).mpr (.inl ⟨hlo, hhi⟩)]
    rfl
  case wide =>
    rw [eq_wideOffset hj hoff, target_wideOffset s.k r j hj]
    split <;> rfl
  all_goals
    rintro rfl
    rfl

/-! ### Writes (20_memory.md R47) -/

theorem step_of_write {s : State} {off : Offset} {v : Word} {rest : List Input}
    (hin : s.inputs = .write off 4 v :: rest) (halign : off.toNat % 4 = 0) :
    step s = writeTarget v (taken s rest .written) (target s.k off) := by
  rw [step_cons hin, runInput, hostWrite_word halign]
  rfl

/-- A write of a wide register's word leaves what every other word of the window reads. -/
theorem readTarget_writeWide_other (v : Word) (s : State) {r : WideReg} {j : Nat} {g : Target} (hg : g ≠ .wide r j) :
    readTarget (writeWide r j v s) g = readTarget s g := by
  cases g with
  | wide q i =>
    simp only [readTarget]
    obtain heq | ⟨rfl, heq⟩ := wideReg_writeWide r j v s q
    · rw [heq]
    · have hij : i ≠ j := fun h => hg (h ▸ rfl)
      rw [heq, getWord_setWord_other _ _ hij]
  | status => cases r <;> rfl
  | param | state | m | i | exponent => cases r <;> rfl
  | cmd | reserved => rfl

/-- Settles O35: of the targets but CMD only the words of OPA, OPB and OPE take a write. -/
theorem writesChangeOnlyTheirOperandWord : Obligations.WritesChangeOnlyTheirOperandWord := by
  intro s off v rest h hin halign hcmd
  have hstep := step_of_write hin halign
  cases hg : target s.k off with
  | cmd => exact absurd (eq_offCmd_of_target halign hg) hcmd
  | wide r j =>
    obtain ⟨hj, -⟩ := offset_of_target_wide halign hg
    rw [hg] at hstep
    refine ⟨_, hstep, by simp [taken], by simp [taken], fun g hne => ?other, ?own⟩
    case other => rw [readTarget_writeWide_other _ _ hne, readTarget_taken]
    case own =>
      cases r with
      | opa => exact getWord_setWord_same v (hj.trans_eq (h.len .opa).symm)
      | opb => exact getWord_setWord_same v (hj.trans_eq (h.len .opb).symm)
      | ope => exact getWord_setWord_same v (hj.trans_eq (h.len .ope).symm)
      | result | ln | lp | le | l | odd | z | c | t | root | s | b => rfl
  | param | status | state | m | i | exponent | reserved =>
    rw [hg] at hstep
    exact ⟨_, hstep, rfl, rfl, fun g _ => readTarget_taken .., readTarget_taken ..⟩

end Sys2Proof.Window

/-! ## The command words one by one -/

namespace Sys2Proof.CommandWords

open Sys2Proof.Machine Sys2Proof.StepCases

theorem decode_of_rsvd {w : Word} (h : rsvdField w ≠ 0) : decode w = .error .reservedBits := if_pos h

/-- With RSVD = 0 an opcode that is no command's is named as the cause (30_encoding.md R59). -/
theorem decode_of_op {w : Word} (h0 : rsvdField w = 0) (h1 : opField w ≠ 1) (h2 : opField w ≠ 2)
    (h3 : opField w ≠ 3) : decode w = .error .illegalOp := by
  rw [decode, if_neg (not_not.mpr h0), if_neg h1, if_neg h2, if_neg h3]

theorem decode_eq_ok_iff_toNat (w : Word) (i : Instr) : decode w = .ok i ↔ w.toNat = (encode i).toNat :=
  (decode_eq_ok_iff w i).trans BitVec.toNat_inj.symm

/-- Settles O2: a word is accepted exactly where it is a command's, and is in error exactly where it is illegal. -/
theorem decoderAcceptsExactlyTheThreeWords : Obligations.DecoderAcceptsExactlyTheThreeWords := fun w =>
  ⟨decode_eq_ok_iff_toNat w .modpow, decode_eq_ok_iff_toNat w .legendre, decode_eq_ok_iff_toNat w .tsqrt,
    (decode_eq_error_iff w).mpr⟩

/-- Settles O1: two of the six words are commands', two have no command's opcode, two have a reserved bit set. -/
theorem workedEncodingsDecode : Obligations.WorkedEncodingsDecode :=
  ⟨(decode_eq_ok_iff _ .tsqrt).mpr rfl, (decode_eq_ok_iff _ .modpow).mpr rfl,
    decode_of_op rfl (by decide) (by decide) (by decide), decode_of_op rfl (by decide) (by decide) (by decide),
    decode_of_rsvd (by decide), decode_of_rsvd (by decide)⟩

end Sys2Proof.CommandWords

/-! ## The statements of the host assembly -/

namespace Sys2Proof.HostSteps

open Sys2Proof.Machine Sys2Proof.StepCases Sys2Proof.Window

/-! ### The driver's statements -/

theorem setw_opa {k : Nat} {x : Int} (h : fitsSigned k x = true) : setw k .opa x = some (setwStores k .opa x) :=
  if_pos h

theorem setw_opb {k : Nat} {x : Int} (h : fitsSigned k x = true) : setw k .opb x = some (setwStores k .opb x) :=
  if_pos h

theorem setw_ope {k : Nat} {x : Int} (h : fitsUnsigned k x = true) : setw k .ope x = some (setwStores k .ope x) :=
  if_pos h

/-- Settles O54: on operands that fit no `setw` refuses, and both sides are the same stores, command and `wait`. -/
theorem driverIssuesTheExpansions : Obligations.DriverIssuesTheExpansions := by
  intro k a b e h l ha hb
  refine ⟨?_, ?_, fun he => ?_⟩
  · simp [sqrtStmts, setw_opa ha, setw_opb hb, driverStmts]
  · simp [legendreStmts, setw_opa ha, setw_opb hb, driverStmts]
  · simp [modpowStmts, setw_opa ha, setw_opb hb, setw_ope he, driverStmts]

/-! ### One statement at a time (30_encoding.md R62) -/

@[simp] theorem getVar_setVar_same (vars : List Nat) (x v : Nat) : getVar (setVar vars x v) x = v := by
  induction vars, x, v using setVar.induct with
  | case1 v => rfl
  | case2 x v ih => exact ih
  | case3 u vs v => rfl
  | case4 u vs x v ih => exact ih

theorem afterAccess_next {r : Result} {f : State → HostRun} {z : System} (h : afterAccess r f = .next z) :
    ∃ t, r = .next t ∧ z = ⟨f t, t⟩ := by
  cases r with
  | next t => exact ⟨t, rfl, (Host.Outcome.next.inj h).symm⟩
  | fault e => cases h
  | refused e => cases h

theorem hostStmt_command (i : Instr) (y : System) :
    hostStmt (.command i) y = hostStmt (.sw offCmd (encode i).toNat) y := by
  simp [hostStmt]

/-- The host and the machine after `lw` has read the word at `off` into `x`. -/
def loaded (x : Nat) (off : Offset) (y : System) : System :=
  ⟨{ y.host.advance with vars := setVar y.host.vars x (readTarget y.dev (target y.dev.k off)).toNat },
    taken y.dev y.dev.inputs (.data (readTarget y.dev (target y.dev.k off)))⟩

theorem hostStmt_label (l : Nat) (y : System) : hostStmt (.label l) y = .next { y with host := y.host.advance } := rfl

theorem hostStmt_lw {off : Offset} (halign : off.toNat % 4 = 0) (x : Nat) (y : System) :
    hostStmt (.lw x off) y = .next (loaded x off y) := by
  simp only [hostStmt, hostRead_word halign]
  rfl

theorem hostStmt_lw_next {off : Offset} {x : Nat} {y z : System} (h : hostStmt (.lw x off) y = .next z) :
    z = loaded x off y := by
  by_cases halign : off.toNat % 4 = 0
  · exact Host.Outcome.next.inj (h.symm.trans (hostStmt_lw halign x y))
  · obtain ⟨t, ht, -⟩ := afterAccess_next h
    rw [Progress.hostRead_refused (fun hw => halign hw.2)] at ht
    cases ht

theorem hostStmt_bnz_of_zero {x : Nat} {mask : Word} {y : System} (h : getVar y.host.vars x &&& mask.toNat = 0)
    (l : Nat) : hostStmt (.bnz x mask l) y = .next { y with host := y.host.advance } :=
  if_pos h

theorem hostStmt_bnz_of_ne_zero {x a l : Nat} {mask : Word} {y : System}
    (h : getVar y.host.vars x &&& mask.toNat ≠ 0) (hl : labelIndex y.host.prog l = some a) :
    hostStmt (.bnz x mask l) y = .next { y with host := { y.host with pc := a } } := by
  simp only [hostStmt, if_neg h, hl]

/-- A branch that answers a next state moves the host's place alone. -/
theorem hostStmt_bnz_next {x l : Nat} {mask : Word} {y z : System} (h : hostStmt (.bnz x mask l) y = .next z) :
    ∃ a, z = { y with host := { y.host with pc := a } } := by
  by_cases h0 : getVar y.host.vars x &&& mask.toNat = 0
  · exact ⟨_, Host.Outcome.next.inj (h.symm.trans (hostStmt_bnz_of_zero h0 l))⟩
  · cases hl : labelIndex y.host.prog l with
    | some a => exact ⟨a, Host.Outcome.next.inj (h.symm.trans (hostStmt_bnz_of_ne_zero h0 hl))⟩
    | none =>
      simp only [hostStmt, if_neg h0, hl] at h
      cases h

/-- Settles O56: a mnemonic writes its command's word, an answered `lw` is `loaded`, and `bnz` and `halt` write the
host's place and its halt alone. -/
theorem hostStatements : Obligations.HostStatements := by
  intro y
  refine ⟨hostStmt_command .modpow y, hostStmt_command .legendre y, hostStmt_command .tsqrt y, fun x off z h => ?_,
    fun x mask l z h => ?_, _, rfl, rfl, rfl⟩
  · obtain rfl := hostStmt_lw_next h
    exact ⟨rfl, getVar_setVar_same .., rfl⟩
  · obtain ⟨a, rfl⟩ := hostStmt_bnz_next h
    exact ⟨rfl, rfl⟩

/-- A running host at a statement of its program executes it. -/
theorem hostTurn_of_stmt {y : System} {st : HostStmt} (hrun : y.host.halted = false)
    (hst : y.host.prog[y.host.pc]? = some st) : hostTurn y = hostStmt st y := by
  simp [hostTurn, hrun, hst]

end Sys2Proof.HostSteps

/-! ## A rank that every engine step lowers: commands terminate -/

namespace Sys2Proof.Termination

open Sys2Proof.Machine Sys2Proof.Laws Sys2Proof.StepCases Sys2Proof.EngineCases Sys2Proof.MachineInvariant

/-- A place in a command's course: the phase, the counter of the phase's loop, and the counter of the loop within,
compared in this order. -/
def stage (phase outer inner : Nat) : Nat ×ₗ Nat ×ₗ Nat := toLex (phase, toLex (outer, inner))

theorem stage_lt_of_phase {p p' o o' i i' : Nat} (h : p < p') : stage p o i < stage p' o' i' :=
  Prod.Lex.toLex_lt_toLex.mpr (.inl h)

theorem stage_lt_of_outer {p o o' i i' : Nat} (h : o < o') : stage p o i < stage p o' i' :=
  Prod.Lex.toLex_lt_toLex.mpr (.inr ⟨rfl, Prod.Lex.toLex_lt_toLex.mpr (.inl h)⟩)

theorem stage_lt_of_inner {p o i i' : Nat} (h : i < i') : stage p o i < stage p o i' :=
  Prod.Lex.toLex_lt_toLex.mpr (.inr ⟨rfl, Prod.Lex.toLex_lt_toLex.mpr (.inr ⟨rfl, h⟩)⟩)

/-- The rank of a state, by its controller state (42_tonelli_shanks.md R100): the decomposition halves ODD, the witness
scan comes nearer to `p`, a pass of the outer loop lowers M, and within a pass the inner scan comes nearer to M. -/
def rankAt : CtrlState → State → Nat ×ₗ Nat ×ₗ Nat
  | .idle, _ => stage 0 0 0
  | .mpExec, _ | .lgExec, _ | .tsCanon, _ => stage 1 0 0
  | .tsFast, _ => stage 2 0 0
  | .tsUpdate, s => stage 2 s.m.toNat 0
  | .tsBcomp, s => stage 2 s.m.toNat 1
  | .tsIscan, s => stage 2 s.m.toNat (s.m.toNat - s.i.toNat + 2)
  | .tsLoop, s => stage 2 s.m.toNat (s.m.toNat + 3)
  | .tsInit, _ => stage 3 0 0
  | .tsWscan, s => stage 4 (opP s - uval s.z).toNat 0
  | .tsDecomp, s => stage 5 (uval s.odd) 0
  | .tsLegendre, _ => stage 6 0 0
  | .tsZero, _ => stage 7 0 0
  | .tsValidate, _ => stage 8 0 0

/-- Every state of a running command ranks above the idle one, whatever is counted there. -/
theorem idle_lt_rankAt {c : CtrlState} (hc : c ≠ .idle) (n : Nat) (s : State) : stage 0 0 n < rankAt c s := by
  cases c with
  | idle => exact absurd rfl hc
  | mpExec | lgExec | tsValidate | tsZero | tsLegendre | tsDecomp | tsFast | tsWscan | tsInit | tsLoop | tsIscan
  | tsBcomp | tsUpdate | tsCanon => exact stage_lt_of_phase (by decide)

theorem rankAt_taken (c : CtrlState) (s : State) (rest : List Input) (a : Response) :
    rankAt c (taken s rest a) = rankAt c s := by
  cases c <;> rfl

section

variable {s t : State}

theorem rankAt_lt_of_stepLegendre (hs : stepLegendre s = .next t) : rankAt t.ctrl t < rankAt .tsLegendre s := by
  obtain ⟨-, rfl⟩ | ⟨-, -, rfl⟩ | ⟨-, -, rfl⟩ := stepLegendre_next hs
  · exact idle_lt_rankAt (by decide) 0 s
  · exact idle_lt_rankAt (by decide) 0 s
  · exact stage_lt_of_phase (by decide)

theorem rankAt_lt_of_stepLoop (hs : stepLoop s = .next t) : rankAt t.ctrl t < rankAt .tsLoop s := by
  obtain ⟨-, ⟨-, rfl⟩ | ⟨-, rfl⟩⟩ := stepLoop_next hs
  · exact stage_lt_of_phase (by decide)
  · exact stage_lt_of_inner (show s.m.toNat - 1 + 2 < s.m.toNat + 3 by omega)

theorem rankAt_lt_of_stepIscan (hs : stepIscan s = .next t) : rankAt t.ctrl t < rankAt .tsIscan s := by
  obtain ⟨-, rfl⟩ | ⟨him, -, ⟨-, rfl⟩ | ⟨-, rfl⟩⟩ := stepIscan_next hs
  · exact idle_lt_rankAt (by decide) 0 s
  · exact stage_lt_of_inner (show 1 < s.m.toNat - s.i.toNat + 2 by omega)
  · have hsucc : (s.i + 1#32).toNat = s.i.toNat + 1 := by
      have := s.m.isLt
      rw [BitVec.toNat_add]
      simp only [BitVec.toNat_ofNat]
      omega
    exact stage_lt_of_inner (show s.m.toNat - (s.i + 1#32).toNat + 2 < s.m.toNat - s.i.toNat + 2 by omega)

variable (h : Inv s)
include h

/-- A halving lowers ODD, which is not 0 because `ODD · 2^EXPONENT = p − 1` (42_tonelli_shanks.md R88). -/
theorem rankAt_lt_of_stepDecomp (hc : s.ctrl = .tsDecomp) (hs : stepDecomp s = .next t) :
    rankAt t.ctrl t < rankAt .tsDecomp s := by
  have hd : AtDecomp s := atDecomp h (by rw [hc]; rfl)
  obtain ⟨-, rfl⟩ | ⟨-, -, rfl⟩ | ⟨-, -, rfl⟩ := stepDecomp_next hs
  · have hmod := hd.modulus
    have hprod := hd.product
    have hle : (uval s.odd : Int) ≤ opP s - 1 :=
      hprod ▸ le_mul_of_one_le_right (by positivity) (one_le_pow₀ (by decide))
    have hne : uval s.odd ≠ 0 := by
      intro h0
      rw [h0, Nat.cast_zero, zero_mul] at hprod
      omega
    have hhalf : (uval (enc s.k (uval s.odd / 2 : Nat)) : Int) = (uval s.odd / 2 : Nat) :=
      uval_enc_of_le_opP h (by positivity) (by omega)
    exact stage_lt_of_outer (show uval (enc s.k (uval s.odd / 2 : Nat)) < uval s.odd by omega)
  · exact stage_lt_of_phase (by decide)
  · exact stage_lt_of_phase (by decide)

theorem rankAt_lt_of_stepWscan (hs : stepWscan s = .next t) : rankAt t.ctrl t < rankAt .tsWscan s := by
  obtain ⟨-, rfl⟩ | ⟨-, -, rfl⟩ | ⟨hlt, -, rfl⟩ := stepWscan_next hs
  · exact idle_lt_rankAt (by decide) 0 s
  · exact stage_lt_of_phase (by decide)
  · have hz : (uval (enc s.k ((uval s.z : Int) + 1)) : Int) = uval s.z + 1 :=
      uval_enc_of_le_opP h (by positivity) hlt
    exact stage_lt_of_outer
      (show (opP s - uval (enc s.k ((uval s.z : Int) + 1))).toNat < (opP s - uval s.z).toNat by omega)

/-- Every engine step lowers the rank. -/
theorem rankAt_lt_of_engineStep (hs : engineStep s = .next t) : rankAt t.ctrl t < rankAt s.ctrl s := by
  cases hc : s.ctrl <;> simp only [engineStep, hc] at hs
  case idle => cases hs
  case mpExec =>
    obtain rfl := Host.Outcome.next.inj ((stepMpExec_eq s).symm.trans hs)
    split_ifs <;> exact idle_lt_rankAt (by decide) 0 s
  case lgExec =>
    obtain rfl := Host.Outcome.next.inj ((stepLgExec_eq s).symm.trans hs)
    split_ifs <;> exact idle_lt_rankAt (by decide) 0 s
  case tsValidate =>
    obtain ⟨-, rfl⟩ | ⟨-, rfl⟩ := stepValidate_next hs <;> exact stage_lt_of_phase (by decide)
  case tsZero =>
    obtain ⟨-, rfl⟩ | ⟨-, rfl⟩ := stepZero_next hs <;> exact stage_lt_of_phase (by decide)
  case tsLegendre => exact rankAt_lt_of_stepLegendre hs
  case tsDecomp => exact rankAt_lt_of_stepDecomp h hc hs
  case tsFast =>
    obtain ⟨-, rfl⟩ := stepFast_next hs
    exact stage_lt_of_phase (by decide)
  case tsWscan => exact rankAt_lt_of_stepWscan h hs
  case tsInit =>
    obtain ⟨-, rfl⟩ := stepInit_next hs
    exact stage_lt_of_phase (by decide)
  case tsLoop => exact rankAt_lt_of_stepLoop hs
  case tsIscan => exact rankAt_lt_of_stepIscan hs
  case tsBcomp =>
    obtain ⟨-, -, rfl⟩ := stepBcomp_next hs
    exact stage_lt_of_inner (by decide)
  case tsUpdate =>
    obtain ⟨-, rfl⟩ := stepUpdate_next hs
    exact stage_lt_of_outer (atBcomp h (by rw [hc]; rfl)).i_lt
  case tsCanon =>
    obtain rfl := Host.Outcome.next.inj ((stepCanon_eq s).symm.trans hs)
    exact idle_lt_rankAt (by decide) 0 s

end

end Sys2Proof.Termination

/-! ## Fair schedules reach what a rank leads to -/

namespace Sys2Proof.FairRuns

open Sys2Proof.Machine Sys2Proof.Laws

/-- If each turn reaches `Q`, or stays in `P` and lowers the rank, or stays in `P` with the rank and the helpful turn as
they were, and that only where the turn is not the helpful one, then a schedule on which the helpful turn always comes
again reaches `Q`. -/
theorem exists_systemAt_of_rank {α : Type} [Preorder α] [WellFoundedLT α] {sch : Nat → Turn} {y : System}
    {P Q : System → Prop} (rank : System → α) (helpful : System → Turn)
    (hstep : ∀ n z, P z → ∃ w, systemTurn (sch n) z = .next w ∧
      (Q w ∨ P w ∧ (rank w < rank z ∨ rank w = rank z ∧ helpful w = helpful z ∧ sch n ≠ helpful z)))
    (hfair : ∀ n z, systemAt sch n y = .next z → P z → ∃ m, n ≤ m ∧ sch m = helpful z)
    {n : Nat} {z : System} (hz : systemAt sch n y = .next z) (hP : P z) : ∃ m w, systemAt sch m y = .next w ∧ Q w := by
  induction hr : rank z using WellFoundedLT.induction generalizing n z with
  | ind r lower =>
    obtain ⟨m, hnm, hm⟩ := hfair n z hz hP
    obtain ⟨d, rfl⟩ := Nat.exists_eq_add_of_le hnm
    clear hnm
    induction d generalizing n z with
    | zero =>
      obtain ⟨w, hw, hQ | ⟨hPw, hlt | ⟨-, -, hne⟩⟩⟩ := hstep n z hP
      · exact ⟨n + 1, w, (systemAt_succ hz).trans hw, hQ⟩
      · exact lower _ (hr ▸ hlt) ((systemAt_succ hz).trans hw) hPw rfl
      · exact absurd hm hne
    | succ d wait =>
      obtain ⟨w, hw, hQ | ⟨hPw, hlt | ⟨heq, hhelp, -⟩⟩⟩ := hstep n z hP
      · exact ⟨n + 1, w, (systemAt_succ hz).trans hw, hQ⟩
      · exact lower _ (hr ▸ hlt) ((systemAt_succ hz).trans hw) hPw rfl
      · exact wait ((systemAt_succ hz).trans hw) hPw (heq.trans hr) (by rw [hhelp, ← hm]; congr 1; omega)

end Sys2Proof.FairRuns

/-! ## A fair `wait` ends -/

namespace Sys2Proof.Waits

open Sys2Proof.Machine Sys2Proof.StepCases Sys2Proof.EngineCases Sys2Proof.MachineInvariant Sys2Proof.Progress
  Sys2Proof.HostSteps Sys2Proof.Termination Sys2Proof.FairRuns

/-- The three statements of a `wait` stand at `a` in the program, and its label names `a` (30_encoding.md R63). -/
structure WaitCode (prog : List HostStmt) (a x l : Nat) : Prop where
  label : prog[a]? = some (.label l)
  load : prog[a + 1]? = some (.lw x offStatus)
  branch : prog[a + 2]? = some (.bnz x maskBusy l)
  back : labelIndex prog l = some a

theorem waitCode_of_atWait {y : System} {x l : Nat} (h : AtWait y x l) : WaitCode y.host.prog y.host.pc x l := by
  have hget : ∀ j < 3, y.host.prog[y.host.pc + j]? = (waitStmts x l)[j]? := by
    intro j hj
    rw [← h.code, List.getElem?_take_of_lt hj, List.getElem?_drop]
  exact ⟨hget 0 (by decide), hget 1 (by decide), hget 2 (by decide), h.label⟩

/-- What the `wait` tests: bit BUSY of the STATUS word in its scratch variable. -/
def busyBit (x : Nat) (h : HostRun) : Nat := getVar h.vars x &&& maskBusy.toNat

/-- STATUS shows BUSY in bit 0 (10_state.md R20). -/
theorem statusWord_and_maskBusy (s : State) : (statusWord s).toNat &&& maskBusy.toNat = s.busy.toNat := by
  have hmask : maskBusy.toNat = 1 := rfl
  have hbusy : s.busy.toNat < 2 := Bool.toNat_lt _
  rw [hmask, Nat.and_one_is_mod, StatusWords.toNat_statusWord]
  omega

@[simp] theorem busyBit_loaded (x : Nat) (z : System) : busyBit x (loaded x offStatus z).host = z.dev.busy.toNat := by
  rw [busyBit, loaded, getVar_setVar_same]
  exact statusWord_and_maskBusy z.dev

/-- A running host of the program `prog`. -/
structure Running (prog : List HostStmt) (z : System) : Prop where
  halted : z.host.halted = false
  prog : z.host.prog = prog

section HostTurns

variable {prog : List HostStmt} {a x l : Nat} {z : System} (hcode : WaitCode prog a x l) (hrun : Running prog z)
include hcode hrun

theorem hostTurn_label (hpc : z.host.pc = a) : hostTurn z = .next { z with host := z.host.advance } :=
  (hostTurn_of_stmt hrun.halted (by rw [hrun.prog, hpc, hcode.label])).trans (hostStmt_label l z)

theorem hostTurn_load (hpc : z.host.pc = a + 1) : hostTurn z = .next (loaded x offStatus z) :=
  (hostTurn_of_stmt hrun.halted (by rw [hrun.prog, hpc, hcode.load])).trans (hostStmt_lw (by decide) x z)

theorem hostTurn_leave (hpc : z.host.pc = a + 2) (hbit : busyBit x z.host = 0) :
    hostTurn z = .next { z with host := z.host.advance } :=
  (hostTurn_of_stmt hrun.halted (by rw [hrun.prog, hpc, hcode.branch])).trans (hostStmt_bnz_of_zero hbit l)

theorem hostTurn_back (hpc : z.host.pc = a + 2) (hbit : busyBit x z.host ≠ 0) :
    hostTurn z = .next { z with host := { z.host with pc := a } } :=
  (hostTurn_of_stmt hrun.halted (by rw [hrun.prog, hpc, hcode.branch])).trans
    (hostStmt_bnz_of_ne_zero hbit (hrun.prog ▸ hcode.back))

/-- Three turns of the host pass a `wait` on an idle engine, and the machine's registers are as they were. -/
theorem systemRun_wait_of_idle (hpc : z.host.pc = a) (hb : z.dev.busy = false) :
    ∃ w, systemRun [.host, .host, .host] z = .next w ∧ w.host.pc = a + 3 ∧ registersOf w.dev = registersOf z.dev := by
  let z₁ : System := { z with host := z.host.advance }
  let z₂ := loaded x offStatus z₁
  have hrun₁ : Running prog z₁ := ⟨hrun.halted, hrun.prog⟩
  have hrun₂ : Running prog z₂ := ⟨hrun.halted, hrun.prog⟩
  have h₁ : hostTurn z = .next z₁ := hostTurn_label hcode hrun hpc
  have h₂ : hostTurn z₁ = .next z₂ := hostTurn_load hcode hrun₁ (congrArg (· + 1) hpc)
  have h₃ : hostTurn z₂ = .next { z₂ with host := z₂.host.advance } :=
    hostTurn_leave hcode hrun₂ (congrArg (· + 2) hpc) ((busyBit_loaded x z₁).trans (by rw [hb]; rfl))
  refine ⟨{ z₂ with host := z₂.host.advance }, ?_, congrArg (· + 3) hpc, rfl⟩
  simp only [systemRun, systemTurn, h₁, h₂, h₃]

end HostTurns

/-- The host is in the `wait` at `a`; where it is about to leave, BUSY is 0. -/
structure InWait (prog : List HostStmt) (a x : Nat) (z : System) : Prop extends Running prog z where
  pc_ge : a ≤ z.host.pc
  pc_le : z.host.pc ≤ a + 2
  seen : z.host.pc = a + 2 → busyBit x z.host = 0 → z.dev.busy = false

theorem inWait_of_lt {prog : List HostStmt} {a x : Nat} {z : System} (hrun : Running prog z) (hge : a ≤ z.host.pc)
    (hlt : z.host.pc < a + 2) : InWait prog a x z :=
  { hrun with pc_ge := hge, pc_le := hlt.le, seen := fun hpc => absurd hpc hlt.ne }

/-- The host has come past the `wait` at `a`. -/
structure PastWait (prog : List HostStmt) (a : Nat) (z : System) : Prop extends Running prog z where
  pc : z.host.pc = a + 3
  idle : z.dev.busy = false

/-- How many turns of the host the `wait` at `a` still takes on an idle engine. -/
def waitTurns (a x : Nat) (h : HostRun) : Nat :=
  if h.pc = a + 2 then if busyBit x h = 0 then 1 else 4 else a + 3 - h.pc

/-- The machine may take another state while the host waits, unless a command starts. -/
theorem InWait.with_dev {prog : List HostStmt} {a x : Nat} {z : System} (h : InWait prog a x z) {t : State}
    (ht : z.dev.busy = false → t.busy = false) : InWait prog a x { z with dev := t } :=
  { h with seen := fun hpc hbit => ht (h.seen hpc hbit) }

/-- A turn of a waiting host changes nothing of the machine but the bus's answer; it ends the `wait`, or goes on in it,
nearer to its end where the engine is idle. -/
theorem InWait.hostTurn {prog : List HostStmt} {a x l : Nat} {z : System} (hcode : WaitCode prog a x l)
    (h : InWait prog a x z) :
    ∃ w r, Machine.hostTurn z = .next w ∧ w.dev = taken z.dev z.dev.inputs r ∧
      (PastWait prog a w ∨
        InWait prog a x w ∧ (z.dev.busy = false → waitTurns a x w.host < waitTurns a x z.host)) := by
  have hge := h.pc_ge
  have hle := h.pc_le
  obtain hpc | hpc | hpc : z.host.pc = a ∨ z.host.pc = a + 1 ∨ z.host.pc = a + 2 := by omega
  · have hpc' : z.host.advance.pc = a + 1 := congrArg (· + 1) hpc
    refine ⟨_, z.dev.response, hostTurn_label hcode h.toRunning hpc, rfl, .inr ⟨?_, fun _ => ?_⟩⟩
    · exact inWait_of_lt ⟨h.halted, h.prog⟩ (hpc'.ge.trans' (by omega)) (hpc'.trans_lt (by omega))
    · simp [waitTurns, hpc, hpc']
  · have hpc' : (loaded x offStatus z).host.pc = a + 2 := congrArg (· + 1) hpc
    refine ⟨_, _, hostTurn_load hcode h.toRunning hpc, rfl, .inr ⟨?_, fun hb => ?_⟩⟩
    · exact
        { halted := h.halted, prog := h.prog, pc_ge := by omega, pc_le := by omega
          seen := fun _ hbit => Bool.toNat_eq_zero.mp ((busyBit_loaded x z).symm.trans hbit) }
    · simp [waitTurns, hpc, hpc', hb]
  · by_cases hbit : busyBit x z.host = 0
    · exact ⟨_, z.dev.response, hostTurn_leave hcode h.toRunning hpc hbit, rfl,
        .inl { halted := h.halted, prog := h.prog, pc := congrArg (· + 1) hpc, idle := h.seen hpc hbit }⟩
    · refine ⟨_, z.dev.response, hostTurn_back hcode h.toRunning hpc hbit, rfl, .inr ⟨?_, fun _ => ?_⟩⟩
      · exact inWait_of_lt ⟨h.halted, h.prog⟩ le_rfl (Nat.lt_add_of_pos_right Nat.two_pos)
      · simp [waitTurns, hpc, hbit]

/-! ### The turns of a fair schedule

`D` is the case in which the `wait` ends with DONE = 1: a command was running and no reset comes. -/

/-- What every turn keeps until the host has come past its `wait`. -/
structure WaitRun (D : Prop) (prog : List HostStmt) (a x : Nat) (z : System) : Prop extends InWait prog a x z where
  inv : Inv z.dev
  outcome : D → z.dev.busy = true ∨ z.dev.done = true

/-- The `wait` is over, with its command's outcome. -/
structure WaitDone (D : Prop) (prog : List HostStmt) (a : Nat) (z : System) : Prop extends PastWait prog a z where
  done : D → z.dev.done = true

/-- How far a waiting system is from the end of its `wait`: the rank of the running command, or the turns that the host
takes where none runs. -/
def waitRank (a x : Nat) (z : System) : Nat ×ₗ Nat ×ₗ Nat :=
  if z.dev.busy then rankAt z.dev.ctrl z.dev else stage 0 0 (waitTurns a x z.host)

/-- Whose turn brings the end nearer. -/
def helpfulTurn (z : System) : Turn := if z.dev.busy then .engine else .host

section

variable {z : System}

theorem waitRank_of_busy (a x : Nat) (hb : z.dev.busy = true) : waitRank a x z = rankAt z.dev.ctrl z.dev := if_pos hb

theorem waitRank_of_idle (a x : Nat) (hb : z.dev.busy = false) :
    waitRank a x z = stage 0 0 (waitTurns a x z.host) :=
  if_neg (by simp [hb])

theorem helpfulTurn_of_busy (hb : z.dev.busy = true) : helpfulTurn z = .engine := if_pos hb

theorem helpfulTurn_of_idle (hb : z.dev.busy = false) : helpfulTurn z = .host := if_neg (by simp [hb])

end

/-- The turn `tu` has brought the system from `z` to `w` nearer to the end of the `wait`, or was not the helpful one and
has left the distance as it was. -/
def Nearer (a x : Nat) (tu : Turn) (z w : System) : Prop :=
  waitRank a x w < waitRank a x z ∨
    waitRank a x w = waitRank a x z ∧ helpfulTurn w = helpfulTurn z ∧ tu ≠ helpfulTurn z

section Turns

variable {D : Prop} {prog : List HostStmt} {a x : Nat} {z : System} (h : WaitRun D prog a x z)
include h

/-- Where a command runs, an idle engine is nearer to the end, wherever the host stands. -/
theorem waitRank_lt_of_completes {w : System} (hb : z.dev.busy = true) (hw : w.dev.busy = false) :
    waitRank a x w < waitRank a x z := by
  have hc : z.dev.ctrl ≠ .idle := fun hidle => by simp [h.inv.busyCtrl.mpr hidle] at hb
  rw [waitRank_of_busy a x hb, waitRank_of_idle a x hw]
  exact idle_lt_rankAt hc ..

theorem WaitRun.engineTurn : ∃ w, systemTurn .engine z = .next w ∧ WaitRun D prog a x w ∧ Nearer a x .engine z w := by
  cases hb : z.dev.busy with
  | false =>
    have hturn : systemTurn .engine z = .next z := by simp only [systemTurn, engineTurn_of_idle hb, afterAccess]
    exact ⟨z, hturn, h, .inr ⟨rfl, rfl, by simp [helpfulTurn_of_idle hb]⟩⟩
  | true =>
    obtain ⟨t, ht⟩ := engineStep_answers h.inv hb
    have hturn : systemTurn .engine z = .next { z with dev := t } := by
      simp only [systemTurn, engineTurn_of_busy hb, ht, afterAccess]
    have hrank := rankAt_lt_of_engineStep h.inv ht
    have hout : t.busy = true ∨ t.busy = false ∧ t.done = true := by
      obtain ⟨hbusy, -⟩ | ⟨hidle, hdone, -⟩ := (engineCase_of_engineStep ht).goesOn_or_completes
      · exact .inl (hbusy.trans hb)
      · exact .inr ⟨hidle, hdone⟩
    refine ⟨_, hturn, ?_, .inl ?_⟩
    · exact
        { h.toInWait.with_dev (t := t) (by simp [hb]) with
          inv := inv_of_engineStep h.inv hb ht
          outcome := fun _ => hout.imp_right And.right }
    · obtain hgo | ⟨hidle, -⟩ := hout
      · rwa [waitRank_of_busy a x hb, waitRank_of_busy a x hgo]
      · exact waitRank_lt_of_completes h hb hidle

theorem WaitRun.resetTurn (hD : ¬ D) :
    ∃ w, systemTurn .reset z = .next w ∧ WaitRun D prog a x w ∧ Nearer a x .reset z w := by
  refine ⟨_, rfl, ?_, ?_⟩
  · exact
      { h.toInWait.with_dev (t := resetEvent z.dev) fun _ => rfl with
        inv := inv_resetEvent h.inv
        outcome := fun hd => absurd hd hD }
  · cases hb : z.dev.busy with
    | true => exact .inl (waitRank_lt_of_completes h hb rfl)
    | false =>
      refine .inr ⟨?_, ?_, by simp [helpfulTurn_of_idle hb]⟩
      · rw [waitRank_of_idle a x hb, waitRank_of_idle a x rfl]
      · rw [helpfulTurn_of_idle hb, helpfulTurn_of_idle rfl]

theorem WaitRun.hostTurn {l : Nat} (hcode : WaitCode prog a x l) :
    ∃ w, systemTurn .host z = .next w ∧ (WaitDone D prog a w ∨ WaitRun D prog a x w ∧ Nearer a x .host z w) := by
  obtain ⟨w, r, hturn, hdev, hpast | ⟨hin, hless⟩⟩ := h.toInWait.hostTurn hcode
  · refine ⟨w, hturn, .inl { hpast with done := fun hd => ?_ }⟩
    obtain hbusy | hdone := h.outcome hd
    · have hidle := hpast.idle
      rw [hdev] at hidle
      exact absurd (hbusy.symm.trans hidle) (by decide)
    · exact hdev ▸ hdone
  · have hbusy : w.dev.busy = z.dev.busy := hdev ▸ rfl
    refine ⟨w, hturn, .inr ⟨{ hin with inv := hdev ▸ inv_taken h.inv _ r, outcome := hdev ▸ h.outcome }, ?_⟩⟩
    cases hb : z.dev.busy with
    | true =>
      have hb' := hbusy.trans hb
      refine .inr ⟨?_, ?_, by simp [helpfulTurn_of_busy hb]⟩
      · rw [waitRank_of_busy a x hb, waitRank_of_busy a x hb', hdev]
        exact rankAt_taken ..
      · rw [helpfulTurn_of_busy hb, helpfulTurn_of_busy hb']
    | false =>
      refine .inl ?_
      rw [waitRank_of_idle a x hb, waitRank_of_idle a x (hbusy.trans hb)]
      exact stage_lt_of_inner (hless hb)

/-- Each turn ends the `wait` or goes on with it, and the helpful one brings the end nearer. -/
theorem WaitRun.systemTurn {l : Nat} (hcode : WaitCode prog a x l) {tu : Turn} (hD : D → tu ≠ .reset) :
    ∃ w, Machine.systemTurn tu z = .next w ∧
      (WaitDone D prog a w ∨ WaitRun D prog a x w ∧ Nearer a x tu z w) := by
  cases tu with
  | host => exact h.hostTurn hcode
  | engine =>
    obtain ⟨w, hw, hrun⟩ := h.engineTurn
    exact ⟨w, hw, .inr hrun⟩
  | reset =>
    obtain ⟨w, hw, hrun⟩ := h.resetTurn fun hd => hD hd rfl
    exact ⟨w, hw, .inr hrun⟩

end Turns

/-- Fairness brings the engine's turn while a command runs, and the host's turns come in any case. -/
theorem exists_waitDone {D : Prop} {y : System} {x l : Nat} {sch : Nat → Turn}
    (hcode : WaitCode y.host.prog y.host.pc x l) (h : WaitRun D y.host.prog y.host.pc x y)
    (hD : D → ∀ n, sch n ≠ .reset) (hfair : WeaklyFair sch y) (hmoves : HostMoves sch) :
    ∃ n z, systemAt sch n y = .next z ∧ WaitDone D y.host.prog y.host.pc z := by
  refine exists_systemAt_of_rank (waitRank y.host.pc x) helpfulTurn
    (fun n z hz => hz.systemTurn hcode fun hd => hD hd n) (fun n z hz _ => ?_) (n := 0) rfl h
  cases hb : z.dev.busy with
  | true => exact helpfulTurn_of_busy hb ▸ hfair n z hz hb
  | false => exact helpfulTurn_of_idle hb ▸ hmoves n

/-- Settles O51: while a command runs the engine's turns lower its rank, and once none runs at most four turns of the
host end the `wait`. -/
theorem fairWaitsEnd : Obligations.FairWaitsEnd := by
  intro y x l hinv hat
  have hcode := waitCode_of_atWait hat
  have hrun : Running y.host.prog y := ⟨hat.running, rfl⟩
  refine ⟨fun sch hfair hmoves => ?_, systemRun_wait_of_idle hcode hrun rfl⟩
  have hstart : WaitRun (y.dev.busy = true ∧ ∀ n, sch n ≠ .reset) y.host.prog y.host.pc x y :=
    { inWait_of_lt hrun le_rfl (by omega) with inv := hinv, outcome := fun hd => .inl hd.1 }
  obtain ⟨n, z, hz, hdone⟩ := exists_waitDone hcode hstart (fun hd => hd.2) hfair hmoves
  exact ⟨n, z, hz, hdone.pc, hdone.halted, hdone.prog, hdone.idle, fun hb hnr => hdone.done ⟨hb, hnr⟩⟩

end Sys2Proof.Waits

/-! ## The modpow core: reduction and repeated squaring -/

namespace Sys2Proof.ModpowCore

open Sys2Proof.Machine Sys2Proof.Laws

/-- The core reads its base through its residue (40_modpow.md R69). -/
theorem modpow_emod (x : Int) (e : Nat) (m : Int) : modpow (x % m) e m = modpow x e m := by
  rw [modpow, modpow, Int.emod_emod]

/-- The product's operands may be reduced first (40_modpow.md R69). -/
theorem modmul_emod (x y m : Int) : modmul (x % m) (y % m) m = modmul x y m := (Int.mul_emod x y m).symm

theorem modpow_one (x m : Int) : modpow x 1 m = x % m := by rw [modpow_eq_pow_emod, pow_one]

theorem modmul_modpow (x : Int) (a b : Nat) (m : Int) :
    modmul (modpow x a m) (modpow x b m) m = modpow x (a + b) m := by
  simp only [modpow_eq_pow_emod, modmul_emod]
  rw [modmul, pow_add]

theorem modpow_two (x m : Int) : modpow x 2 m = modmul x x m := by
  rw [← modmul_emod x x, ← modpow_one, modmul_modpow]

/-- A power-of-two exponent is repeated squaring: each squaring doubles the exponent (40_modpow.md R71). -/
theorem modpow_two_pow (x m : Int) (k : Nat) : modpow x (2 ^ k) m = (fun v => modmul v v m)^[k] (x % m) := by
  induction k with
  | zero => exact modpow_one x m
  | succ k ih => rw [Function.iterate_succ_apply', ← ih, modmul_modpow, ← two_mul, ← pow_succ']

/-- Settles O20: the base enters the core through its residue, and exponents add under `modmul`. -/
theorem modpowReducesAndIsRepeatedSquaring : Obligations.ModpowReducesAndIsRepeatedSquaring := fun x y m _ =>
  ⟨fun e => (modpow_emod x e m).symm, (modmul_emod x y m).symm, modpow_two x m, modpow_two_pow x m⟩

end Sys2Proof.ModpowCore

/-! ## MODPOW from accept to completion -/

namespace Sys2Proof.ModpowCommand

open Sys2Proof.Machine Sys2Proof.Laws Sys2Proof.StepCases Sys2Proof.MachineInvariant Sys2Proof.Progress

/-! ### The operands at the accept (10_state.md R34) -/

@[simp] theorem opN_acceptLegal (op : BitVec 4) (en : CtrlState) (s : State) :
    opN (acceptLegal op en s) = sval s.k s.opa := rfl

@[simp] theorem opP_acceptLegal (op : BitVec 4) (en : CtrlState) (s : State) :
    opP (acceptLegal op en s) = sval s.k s.opb := rfl

@[simp] theorem opE_acceptLegal (op : BitVec 4) (en : CtrlState) (s : State) :
    opE (acceptLegal op en s) = uval s.ope := rfl

/-! ### How a command completes -/

section Completion

variable {s : State}

/-- An error completes the command with its code and RESULT = 0 (60_exceptions.md R113, R120). -/
theorem completesFrom_finishErr (c : ErrCode) (hn : s.noroot = false) : CompletesFrom s (finishErr c s) c false 0 :=
  { busy := rfl, done := rfl, ctrl := rfl, err := rfl, noroot := hn, result := by simp, frame := rfl }

/-- A value that the register holds completes the command as RESULT (00_scope.md R12). -/
theorem completesFrom_finishOk {v : Int} (he : s.err = .none) (hn : s.noroot = false)
    (hv : (uval (enc s.k v) : Int) = v) : CompletesFrom s (finishOk v s) .none false v :=
  { busy := rfl, done := rfl, ctrl := rfl, err := he, noroot := hn, result := hv, frame := rfl }

/-- RESULT holds a value of the modpow core (10_state.md R17). -/
theorem uval_enc_modpow (h : Inv s) (b : Int) (e : Nat) (hp : 0 < opP s) :
    (uval (enc s.k (modpow b e (opP s))) : Int) = modpow b e (opP s) :=
  uval_enc_of_le_opP h (modpow_nonneg b e hp) (modpow_lt b e hp).le

end Completion

/-- Settles O8: the accept latches the operands, the one step of MP_EXEC splits on the modulus's sign, and the power is
below the modulus, so RESULT holds it. -/
theorem modpowComputesThePower : Obligations.ModpowComputesThePower := by
  refine ⟨rfl, fun s hs hb => ?_⟩
  have hacc := inv_acceptLegal hs .modpow
  refine ⟨_, _, exec_of_idle hb .modpow, ⟨rfl, rfl, rfl⟩, (engineTurn_of_busy rfl).trans (stepMpExec_eq _),
    fun hneg => ?_, fun hzero => ?_, fun hpos => ?_, ?_⟩
  · rw [opP_acceptLegal, if_pos hneg]
    exact (completesFrom_finishErr .value rfl).toCompleted
  · rw [opP_acceptLegal, if_neg hzero.not_lt, if_pos hzero]
    exact (completesFrom_finishErr .modulusZero rfl).toCompleted
  · have hval := uval_enc_modpow hacc (sval s.k s.opa) (uval s.ope) hpos
    rw [opP_acceptLegal, if_neg (by omega), if_neg (by omega), opN_acceptLegal, opE_acceptLegal, ← modpow_eq_pow_emod]
    exact (completesFrom_finishOk rfl rfl hval).toCompleted
  · split_ifs <;> simp

end Sys2Proof.ModpowCommand

/-! ## LEGENDRE: from accept to completion, and what its result says of an odd prime -/

namespace Sys2Proof.LegendreCommand

open Sys2Proof.Machine Sys2Proof.Laws Sys2Proof.StepCases Sys2Proof.MachineInvariant Sys2Proof.Progress
  Sys2Proof.Residues Sys2Proof.WholeLoops Sys2Proof.ModpowCommand

/-- RESULT and L hold a Legendre value (10_state.md R17, R29). -/
theorem uval_enc_legendre {s : State} (h : Inv s) (a : Int) (hp : 0 < opP s) :
    (uval (enc s.k (legendre a (opP s))) : Int) = legendre a (opP s) :=
  uval_enc_modpow h a _ hp

/-- Settles O9: the accept latches the operands and clears the working registers, the one step of LG_EXEC splits on the
modulus's sign, and Euler's power is below the modulus, so RESULT and L hold it. -/
theorem legendreComputesEulersPower : Obligations.LegendreComputesEulersPower := by
  refine ⟨rfl, fun s hs hb => ?_⟩
  have hacc := inv_acceptLegal hs .legendre
  refine ⟨_, _, exec_of_idle hb .legendre, ⟨rfl, rfl, rfl⟩, (engineTurn_of_busy rfl).trans (stepLgExec_eq _),
    fun hneg => ?_, fun hzero => ?_, fun hpos => ?_, ?_⟩
  · rw [opP_acceptLegal, if_pos hneg]
    exact ⟨(completesFrom_finishErr .value rfl).toCompleted, by simp⟩
  · rw [opP_acceptLegal, if_neg hzero.not_lt, if_pos hzero]
    exact ⟨(completesFrom_finishErr .modulusZero rfl).toCompleted, by simp⟩
  · have hval := uval_enc_legendre hacc (sval s.k s.opa) hpos
    rw [opP_acceptLegal, if_neg (by omega), if_neg (by omega), opN_acceptLegal, ← legendre_eq]
    exact ⟨CompletesFrom.toCompleted (completesFrom_finishOk rfl rfl hval), rfl⟩
  · split_ifs <;> simp

/-! ### The classification of residues (41_legendre.md R79) -/

theorem emod_eq_zero_iff {q : Nat} (x : Int) : x % (q : Int) = 0 ↔ (x : ZMod q) = 0 :=
  not_iff_not.mp (emod_ne_zero_iff x)

section OddPrime

variable {q : Nat} [Fact q.Prime] (h2 : q ≠ 2) (a : Int)
include h2

theorem legendre_eq_zero_iff : legendre a q = 0 ↔ (a : ZMod q) = 0 := by
  have hlt := two_lt h2
  rw [legendre_eq_iff h2 a le_rfl (by omega), Int.cast_zero, pow_eq_zero_iff (by omega)]

/-- Euler's power of a nonzero class is a square root of 1 in a field, so it is 1 or −1. -/
theorem legendre_eq_one_or_sub_one_or_zero : legendre a q = 1 ∨ legendre a q = q - 1 ∨ legendre a q = 0 := by
  rw [legendre_eq_one_iff h2, legendre_eq_sub_one_iff h2, legendre_eq_zero_iff h2]
  by_cases ha : (a : ZMod q) = 0
  · exact .inr (.inr ha)
  · exact (ZMod.pow_div_two_eq_neg_one_or_one q ha).imp_right .inl

/-- The value `p − 1` is what is left when 1 and 0 are excluded: 0 is a square too. -/
theorem legendre_eq_sub_one_iff_not_isSquare : legendre a q = q - 1 ↔ ¬ IsSquare (a : ZMod q) := by
  have hlt := two_lt h2
  have hzero : (a : ZMod q) = 0 → IsSquare (a : ZMod q) := fun h => h ▸ IsSquare.zero
  have hrest : legendre a q = q - 1 ↔ legendre a q ≠ 1 ∧ legendre a q ≠ 0 := by
    have := legendre_eq_one_or_sub_one_or_zero h2 a
    omega
  rw [hrest, Ne, Ne, legendre_eq_one_iff_isSquare h2, legendre_eq_zero_iff h2]
  tauto

end OddPrime

theorem exists_natCast_eq_of_prime {p : Int} (hp : p.toNat.Prime) : ∃ q : Nat, p = q ∧ q.Prime :=
  ⟨p.toNat, by have := hp.pos; omega, hp⟩

/-- Settles O10: RESULT is the Legendre value of the latched operands, and in the field of the modulus Euler's criterion
says which of the three values it is. -/
theorem legendreClassifiesResidues : Obligations.LegendreClassifiesResidues := by
  intro s a p hs hb ha hp hprime hp2
  obtain ⟨t, u, ht, -, hu, -, -, hok, -⟩ := legendreComputesEulersPower.2 s hs hb
  refine ⟨t, u, ht, hu, ?_⟩
  rw [← ha, ← hp] at hok
  obtain ⟨q, rfl, hq⟩ := exists_natCast_eq_of_prime hprime
  have : Fact q.Prime := ⟨hq⟩
  have h2 : q ≠ 2 := by exact_mod_cast hp2
  have hres := (hok (by exact_mod_cast hq.one_le)).1.result
  rw [← legendre_eq] at hres
  rw [hres, emod_ne_zero_iff, emod_eq_zero_iff, ← isSquare_cast_iff]
  exact ⟨legendre_eq_one_iff_isSquare h2 a, legendre_eq_sub_one_iff_not_isSquare h2 a,
    legendre_eq_zero_iff h2 a, legendre_eq_one_or_sub_one_or_zero h2 a⟩

/-! ### TSQRT's residue test on the multiples of its modulus (42_tonelli_shanks.md R102) -/

/-- A multiple of `p` has Legendre value 0 where Euler's exponent is not 0, that is for `p ≥ 3`; at `p = 1` every
remainder is 0 (41_legendre.md R80). -/
theorem legendre_eq_zero_of_dvd {a p : Int} (hp : 1 ≤ p) (hp2 : p ≠ 2) (ha : p ∣ a) : legendre a p = 0 := by
  rw [legendre_eq]
  refine Int.emod_eq_zero_of_dvd ?_
  rcases eq_or_lt_of_le hp with rfl | hlt
  · exact one_dvd _
  · exact dvd_pow ha (by omega)

/-- At `p = 2` Euler's exponent is 0 (41_legendre.md R80). -/
theorem legendre_two (a : Int) : legendre a 2 = 1 := by
  rw [legendre_eq, show ((2 - 1 : Int) / 2).toNat = 0 from rfl, pow_zero]
  rfl

/-- At `p = 2` the residue test lets every `n` through, and the scan has no candidate (42_tonelli_shanks.md R105). -/
theorem tsqrt_two {n : Int} (hn : n ≠ 0) : tsqrt n 2 = .err .witnessNotFound := by
  have hd : halve ((2 - 1 : Int).toNat.log2 + 1) (2 - 1 : Int).toNat 0 = (1, 0) := by decide
  have hw : witness 2 2 2 = none := by decide
  rw [tsqrt_of_legendre_eq_one two_pos hn (legendre_two n) hd]
  simp [generalPath, hw]

/-- Settles O17: the zero test comes first; then a nonzero multiple's Legendre value is 0, but for `p = 2`, where it is 1
and the scan fails. -/
theorem tsqrtTakesOnlyLiteralZeroAsZero : Obligations.TsqrtTakesOnlyLiteralZeroAsZero := by
  refine ⟨fun p hp => by simp [tsqrt, tsqrtRun, hp.not_gt], fun k p hk hp => ?_⟩
  have hn : k * p ≠ 0 := mul_ne_zero hk (by omega)
  constructor
  · intro hp2
    refine tsqrt_of_legendre_ne_one (by omega) hn ?_
    rw [legendre_eq_zero_of_dvd hp hp2 (dvd_mul_left p k)]
    decide
  · rintro rfl
    exact tsqrt_two hn

end Sys2Proof.LegendreCommand

/-! ## What the registers that a TSQRT step writes read back as -/

namespace Sys2Proof.TsqrtReadings

open Sys2Proof.Machine Sys2Proof.Laws Sys2Proof.MachineInvariant Sys2Proof.ModpowCommand

section

variable {s : State}

/-- Counting up in the inner scan does not overflow, for `I < M` (42_tonelli_shanks.md R94). -/
theorem toNat_i_add_one (him : s.i.toNat < s.m.toNat) : (s.i + 1#32).toNat = s.i.toNat + 1 := by
  have := s.m.isLt
  rw [BitVec.toNat_add]
  simp only [BitVec.toNat_ofNat]
  omega

/-- ODD is not 0, because `ODD · 2^EXPONENT = p − 1 ≥ 1` (R88). -/
theorem odd_ne_zero (hd : AtDecomp s) : uval s.odd ≠ 0 := by
  intro h0
  have hmod := hd.modulus
  have hprod := hd.product
  rw [h0, Nat.cast_zero, zero_mul] at hprod
  omega

theorem odd_lt_opP (hd : AtDecomp s) : (uval s.odd : Int) < opP s := by
  have hle : (uval s.odd : Int) ≤ uval s.odd * 2 ^ s.exponent.toNat :=
    le_mul_of_one_le_right (by positivity) (one_le_pow₀ (by decide))
  have := hd.product
  omega

variable (h : Inv s)
include h

theorem uval_enc_modmul (x y : Int) (hp : 0 < opP s) :
    (uval (enc s.k (modmul x y (opP s))) : Int) = modmul x y (opP s) :=
  uval_enc_of_le_opP h (modmul_nonneg x y hp) (modmul_lt x y hp).le

/-- A register holds a power that the modpow core has computed (40_modpow.md R67). -/
theorem uval_enc_modpow_eq_pow (b : Int) (e : Nat) (hp : 0 < opP s) :
    (uval (enc s.k (modpow b e (opP s))) : Int) = b ^ e % opP s :=
  (uval_enc_modpow h b e hp).trans (modpow_eq_pow_emod ..)

/-- Counting the halvings does not overflow, for `2^EXPONENT < 2^(W−1)` (R88). -/
theorem toNat_exponent_add_one (hd : AtDecomp s) : (s.exponent + 1#32).toNat = s.exponent.toNat + 1 := by
  have := exponent_lt h hd
  rw [BitVec.toNat_add]
  simp only [BitVec.toNat_ofNat]
  omega

theorem uval_enc_half_odd (hd : AtDecomp s) : uval (enc s.k (uval s.odd / 2 : Nat)) = uval s.odd / 2 := by
  have := odd_lt_opP hd
  have hval : (uval (enc s.k (uval s.odd / 2 : Nat)) : Int) = (uval s.odd / 2 : Nat) :=
    uval_enc_of_le_opP h (by positivity) (by omega)
  exact_mod_cast hval

theorem uval_enc_two (hd : AtDecomp s) : uval (enc s.k 2) = 2 := by
  have hval : (uval (enc s.k 2) : Int) = 2 := uval_enc_of_le_opP h (by decide) hd.modulus
  exact_mod_cast hval

/-- The next candidate of the witness scan is read back (R90). -/
theorem uval_enc_z_add_one (hlt : (uval s.z : Int) < opP s) :
    uval (enc s.k ((uval s.z : Int) + 1)) = uval s.z + 1 := by
  have hval : (uval (enc s.k ((uval s.z : Int) + 1)) : Int) = uval s.z + 1 := uval_enc_of_le_opP h (by positivity) hlt
  exact_mod_cast hval

/-- `ODD = p − 1` at the start of the decomposition (R87). -/
theorem uval_enc_opP_sub_one (hp : 0 < opP s) : (uval (enc s.k (opP s - 1)) : Int) = opP s - 1 :=
  uval_enc_of_le_opP h (by omega) (by omega)

/-- TS_CANON's smaller root fits RESULT (R97). -/
theorem uval_enc_min_root (hroot : (uval s.root : Int) < opP s) :
    (uval (enc s.k (min (uval s.root : Int) (opP s - uval s.root))) : Int) =
      min (uval s.root : Int) (opP s - uval s.root) :=
  uval_enc_of_le_opP h (by omega) (by omega)

end

end Sys2Proof.TsqrtReadings

/-! ## TSQRT refines the whole-command function

Each state of a running TSQRT promises an outcome and a number of engine steps; every step keeps the promise. -/

namespace Sys2Proof.TsqrtRuns

open Sys2Proof.Machine Sys2Proof.Laws Sys2Proof.StepCases Sys2Proof.EngineCases Sys2Proof.MachineInvariant
  Sys2Proof.Progress Sys2Proof.ModpowCommand Sys2Proof.TsqrtReadings

/-- An outcome that lies `k` engine steps further away. -/
def delay (k : Nat) (r : CmdOutcome × Nat) : CmdOutcome × Nat := (r.1, k + r.2)

@[simp] theorem delay_fst (k : Nat) (r : CmdOutcome × Nat) : (delay k r).1 = r.1 := rfl

@[simp] theorem delay_snd (k : Nat) (r : CmdOutcome × Nat) : (delay k r).2 = k + r.2 := rfl

@[simp] theorem delay_delay (j k : Nat) (r : CmdOutcome × Nat) : delay j (delay k r) = delay (j + k) r := by
  simp [delay, Nat.add_assoc]

/-! ### The outer loop from each of its states on (42_tonelli_shanks.md R93 to R97) -/

/-- From TS_CANON. -/
def canonRun (p root : Int) : CmdOutcome × Nat := (.ok (min root (p - root)), 1)

/-- From TS_LOOP. -/
def loopRun (p root c t : Int) (m : Nat) : CmdOutcome × Nat := outerLoop p (m + 1) root c t m

/-- From TS_UPDATE. -/
def updateRun (p root t b : Int) (i : Nat) : CmdOutcome × Nat :=
  delay 1 (loopRun p (modmul root b p) (modmul b b p) (modmul t (modmul b b p) p) i)

/-- From TS_BCOMP. -/
def bcompRun (p root c t : Int) (m i : Nat) : CmdOutcome × Nat :=
  delay 1 (updateRun p root t (modpow c (2 ^ (m - i - 1)) p) i)

/-- From TS_ISCAN with `s` in S and `i` in I. -/
def scanRun (p root c t : Int) (m : Nat) (s : Int) (i : Nat) : CmdOutcome × Nat :=
  match innerScan p m (m + 1 - i) s i with
  | none => (.err .noConvergence, max m 1 + 1 - i)
  | some j => delay (j - i + 1) (bcompRun p root c t m j)

/-- The inner scan's answer lies in its range. -/
theorem innerScan_range {p : Int} {m fuel i j : Nat} {s : Int} (h : innerScan p m fuel s i = some j) :
    i ≤ j ∧ j < m := by
  induction fuel generalizing s i with
  | zero => cases h
  | succ fuel ih =>
    unfold innerScan at h
    split_ifs at h
    · cases h
      omega
    · have := ih h
      omega

/-- Fuel beyond `m + 1` does not change the outer loop, because every pass lowers `m` (R96). -/
theorem outerLoop_eq_loopRun {p root c t : Int} {fuel m : Nat} (hf : m < fuel) :
    outerLoop p fuel root c t m = loopRun p root c t m := by
  induction fuel using Nat.strong_induction_on generalizing root c t m with
  | _ fuel ih =>
    obtain ⟨f, rfl⟩ := Nat.exists_eq_succ_of_ne_zero (by omega : fuel ≠ 0)
    simp only [loopRun, outerLoop]
    cases hscan : innerScan p m m (modmul t t p) 1 with
    | none => rfl
    | some i =>
      have hi := innerScan_range hscan
      simp only [ih f (by omega) (by omega : i < f), ih m (by omega) hi.2]

theorem loopRun_of_one {p t : Int} (ht : (t - 1) % p = 0) (root c : Int) (m : Nat) :
    loopRun p root c t m = delay 1 (canonRun p root) := by
  simp [loopRun, outerLoop, ht, canonRun, delay]

/-- A pass of the outer loop begins with the inner scan (R93). -/
theorem loopRun_of_ne_one {p t : Int} (ht : (t - 1) % p ≠ 0) (root c : Int) (m : Nat) :
    loopRun p root c t m = delay 1 (scanRun p root c t m (modmul t t p) 1) := by
  simp only [loopRun, outerLoop, if_neg ht, scanRun, Nat.add_sub_cancel]
  cases hscan : innerScan p m m (modmul t t p) 1 with
  | none => rfl
  | some i =>
    have hi := innerScan_range hscan
    simp only [outerLoop_eq_loopRun hi.2, bcompRun, updateRun, delay]
    congr 1
    omega

/-- The bound comes before the value (R94). -/
theorem scanRun_of_le {m i : Nat} (hmi : m ≤ i) (hi : 1 ≤ i) (him : i ≤ max m 1) (p root c t s : Int) :
    scanRun p root c t m s i = (.err .noConvergence, 1) := by
  have hnone : innerScan p m (m + 1 - i) s i = none := by
    cases m + 1 - i with
    | zero => rfl
    | succ fuel => simp [innerScan, hmi]
  have hsteps : max m 1 + 1 - i = 1 := by omega
  simp [scanRun, hnone, hsteps]

theorem scanRun_of_hit {p s : Int} {m i : Nat} (him : i < m) (hs : (s - 1) % p = 0) (root c t : Int) :
    scanRun p root c t m s i = delay 1 (bcompRun p root c t m i) := by
  obtain ⟨fuel, hf⟩ : ∃ fuel, m + 1 - i = fuel + 1 := ⟨m - i, by omega⟩
  simp [scanRun, hf, innerScan, him.not_ge, hs]

theorem scanRun_of_miss {p s : Int} {m i : Nat} (him : i < m) (hs : (s - 1) % p ≠ 0) (root c t : Int) :
    scanRun p root c t m s i = delay 1 (scanRun p root c t m (modmul s s p) (i + 1)) := by
  have hf : m + 1 - i = m + 1 - (i + 1) + 1 := by omega
  simp only [scanRun, hf, innerScan, him.not_ge, hs, if_false]
  cases hscan : innerScan p m (m + 1 - (i + 1)) (modmul s s p) (i + 1) with
  | none =>
    simp only [delay]
    congr 1
    omega
  | some j =>
    have hj := innerScan_range hscan
    simp only [delay_delay]
    congr 1
    omega

/-! ### The command from each of its earlier states on (R85 to R91) -/

/-- From TS_INIT with the witness `z`. -/
def initRun (n p : Int) (odd ex : Nat) (z : Int) : CmdOutcome × Nat :=
  delay 1 (loopRun p (modpow n ((odd + 1) / 2) p) (modpow z odd p) (modpow n odd p) ex)

/-- From TS_WSCAN with the candidate `z`. -/
def witnessRun (n p : Int) (odd ex : Nat) (z : Int) : CmdOutcome × Nat :=
  match witness p (p + 2 - z).toNat z with
  | none => (.err .witnessNotFound, (p - z).toNat + 1)
  | some w => delay ((w - z).toNat + 1) (initRun n p odd ex w)

/-- From TS_FAST. -/
def fastRun (n p : Int) : CmdOutcome × Nat := delay 1 (canonRun p (modpow n ((p + 1) / 4).toNat p))

/-- From TS_DECOMP, once the decomposition is finished. -/
def pathRun (n p : Int) (odd ex : Nat) : CmdOutcome × Nat :=
  delay 1 (if ex = 1 then fastRun n p else witnessRun n p odd ex 2)

/-- From TS_DECOMP with `o` in ODD and `ex` in EXPONENT. -/
def decompRun (n p : Int) (o ex : Nat) : CmdOutcome × Nat :=
  let d := halve (o.log2 + 1) o ex
  delay (d.2 - ex) (pathRun n p d.1 d.2)

/-- From TS_LEGENDRE. -/
def legendreRun (n p : Int) : CmdOutcome × Nat :=
  if p = 0 then (.err .modulusZero, 1)
  else if legendre n p ≠ 1 then (.noroot, 1)
  else delay 1 (decompRun n p (p - 1).toNat 0)

/-- From TS_ZERO. -/
def zeroRun (n p : Int) : CmdOutcome × Nat := if n = 0 then (.ok 0, 1) else delay 1 (legendreRun n p)

/-- The scan's end: no candidate is left (R90). -/
theorem witnessRun_of_le {p z : Int} (hz : p ≤ z) (n : Int) (odd ex : Nat) :
    witnessRun n p odd ex z = (.err .witnessNotFound, 1) := by
  have hnone : witness p (p + 2 - z).toNat z = none := by
    cases (p + 2 - z).toNat with
    | zero => rfl
    | succ fuel => simp [witness, hz]
  have hsteps : (p - z).toNat = 0 := by omega
  simp [witnessRun, hnone, hsteps]

theorem witnessRun_of_hit {p z : Int} (hz : z < p) (hl : legendre z p = p - 1) (n : Int) (odd ex : Nat) :
    witnessRun n p odd ex z = delay 1 (initRun n p odd ex z) := by
  obtain ⟨fuel, hf⟩ : ∃ fuel, (p + 2 - z).toNat = fuel + 1 := ⟨(p + 1 - z).toNat, by omega⟩
  simp [witnessRun, hf, witness, hz.not_ge, hl]

theorem witnessRun_of_miss {p z : Int} (hz : z < p) (hl : legendre z p ≠ p - 1) (n : Int) (odd ex : Nat) :
    witnessRun n p odd ex z = delay 1 (witnessRun n p odd ex (z + 1)) := by
  have hf : (p + 2 - z).toNat = (p + 2 - (z + 1)).toNat + 1 := by omega
  simp only [witnessRun, hf, witness, hz.not_ge, hl, if_false]
  cases hscan : witness p (p + 2 - (z + 1)).toNat (z + 1) with
  | none =>
    simp only [delay]
    congr 1
    omega
  | some w =>
    have hw := (WholeLoops.witness_some hscan).1
    simp only [delay_delay]
    congr 1
    omega

/-- Halving only counts up. -/
theorem le_halve_snd (fuel o ex : Nat) : ex ≤ (halve fuel o ex).2 := by
  induction fuel generalizing o ex with
  | zero => rfl
  | succ fuel ih =>
    unfold halve
    split
    · exact (Nat.le_succ ex).trans (ih ..)
    · rfl

/-- One halving (R88). -/
theorem decompRun_of_even {o : Nat} (ho : o % 2 = 0) (h0 : o ≠ 0) (n p : Int) (ex : Nat) :
    decompRun n p o ex = delay 1 (decompRun n p (o / 2) (ex + 1)) := by
  have hlog : o.log2 = (o / 2).log2 + 1 := by rw [Nat.log2_def, if_pos (by omega)]
  have hle := le_halve_snd ((o / 2).log2 + 1) (o / 2) (ex + 1)
  simp only [decompRun, hlog, halve, ho, if_true, delay_delay] at hle ⊢
  congr 1
  omega

theorem decompRun_of_odd {o : Nat} (ho : o % 2 = 1) (n p : Int) (ex : Nat) :
    decompRun n p o ex = pathRun n p o ex := by
  simp [decompRun, halve, ho, delay]

/-- A Legendre value of 1 is possible only with `p ≥ 2` (R87). -/
theorem two_le_of_legendre_eq_one {n p : Int} (hp : 0 < p) (hl : legendre n p = 1) : 2 ≤ p := by
  have := modpow_lt n ((p - 1) / 2).toNat hp
  rw [legendre] at hl
  omega

theorem generalPath_eq {n p : Int} (hp : 2 ≤ p) (odd ex : Nat) :
    generalPath n p odd ex = witnessRun n p odd ex 2 := by
  have hf : p.toNat = (p + 2 - 2).toNat := by omega
  simp only [generalPath, witnessRun, hf]
  cases hscan : witness p (p + 2 - 2).toNat 2 with
  | none =>
    simp only
    congr 1
    omega
  | some z =>
    have hz := (WholeLoops.witness_some hscan).1
    simp only [initRun, delay_delay, loopRun]
    simp only [delay]
    congr 1
    omega

theorem pathRun_eq {n p : Int} (hp : 2 ≤ p) (odd ex : Nat) :
    pathRun n p odd ex = delay 1 (if ex = 1 then fastRun n p else generalPath n p odd ex) := by
  rw [pathRun, generalPath_eq hp]

/-- The whole-command function is what TS_VALIDATE promises (R98, R100). -/
theorem tsqrtRun_eq (n p : Int) : tsqrtRun n p = if p < 0 then (.err .value, 1) else delay 1 (zeroRun n p) := by
  unfold tsqrtRun zeroRun legendreRun
  split_ifs with hneg hn hp hl
  · rfl
  · rfl
  · rfl
  · rfl
  · have hl : legendre n p = 1 := not_not.mp hl
    have h2 := two_le_of_legendre_eq_one (by omega) hl
    simp only [decompRun, pathRun_eq h2, Nat.sub_zero]
    split_ifs <;> simp only [fastRun, canonRun, delay] <;> congr 1 <;> omega

/-! ### The promise of a state -/

/-- The outcome that a running TSQRT will come to, and in how many engine steps. States outside TSQRT promise nothing
of use. -/
def promise : CtrlState → State → CmdOutcome × Nat
  | .idle, _ | .mpExec, _ | .lgExec, _ => (.noroot, 0)
  | .tsValidate, s => tsqrtRun (opN s) (opP s)
  | .tsZero, s => zeroRun (opN s) (opP s)
  | .tsLegendre, s => legendreRun (opN s) (opP s)
  | .tsDecomp, s => decompRun (opN s) (opP s) (uval s.odd) s.exponent.toNat
  | .tsFast, s => fastRun (opN s) (opP s)
  | .tsWscan, s => witnessRun (opN s) (opP s) (uval s.odd) s.exponent.toNat (uval s.z)
  | .tsInit, s => initRun (opN s) (opP s) (uval s.odd) s.exponent.toNat (uval s.z)
  | .tsLoop, s => loopRun (opP s) (uval s.root) (uval s.c) (uval s.t) s.m.toNat
  | .tsIscan, s => scanRun (opP s) (uval s.root) (uval s.c) (uval s.t) s.m.toNat (uval s.s) s.i.toNat
  | .tsBcomp, s => bcompRun (opP s) (uval s.root) (uval s.c) (uval s.t) s.m.toNat s.i.toNat
  | .tsUpdate, s => updateRun (opP s) (uval s.root) (uval s.t) (uval s.b) s.i.toNat
  | .tsCanon, s => canonRun (opP s) (uval s.root)

/-- The state `t`, one engine step later, keeps the promise `r`: the command goes on with the rest of it, or has
completed with its outcome. -/
inductive Keeps (r : CmdOutcome × Nat) (t : State) : Prop where
  | goesOn (hb : t.busy = true) (hr : r = delay 1 (promise t.ctrl t))
  | completed (o : CmdOutcome) (hb : t.busy = false) (ho : outcomeOf t = some o) (hr : r = (o, 1))

section

variable {s t : State}

theorem outcomeOf_finishErr {e : ErrCode} (he : e ≠ .none) (s : State) : outcomeOf (finishErr e s) = some (.err e) := by
  simp [outcomeOf, he]

theorem outcomeOf_finishNoroot (he : s.err = .none) : outcomeOf (finishNoroot s) = some .noroot := by
  simp [outcomeOf, he]

theorem outcomeOf_finishOk (he : s.err = .none) (hn : s.noroot = false) {v : Int}
    (hv : (uval (enc s.k v) : Int) = v) : outcomeOf (finishOk v s) = some (.ok v) := by
  simp [outcomeOf, he, hn, hv]

theorem keeps_tsValidate (hb : s.busy = true) (hs : stepValidate s = .next t) : Keeps (promise .tsValidate s) t := by
  obtain ⟨hp, rfl⟩ | ⟨hp, rfl⟩ := stepValidate_next hs <;> simp only [promise, tsqrtRun_eq]
  · exact .completed _ rfl (outcomeOf_finishErr (by decide) s) (if_pos hp)
  · exact .goesOn hb (if_neg hp.not_gt)

theorem keeps_tsZero (hb : s.busy = true) (he : s.err = .none) (hn : s.noroot = false) (hs : stepZero s = .next t) :
    Keeps (promise .tsZero s) t := by
  obtain ⟨h0, rfl⟩ | ⟨h0, rfl⟩ := stepZero_next hs
  · exact .completed _ rfl (outcomeOf_finishOk he hn (by simp)) (if_pos h0)
  · exact .goesOn hb (if_neg h0)

variable (h : Inv s)
include h

theorem keeps_tsCanon (hc : s.ctrl = .tsCanon) (he : s.err = .none) (hn : s.noroot = false)
    (hs : stepCanon s = .next t) : Keeps (promise .tsCanon s) t := by
  obtain rfl := Host.Outcome.next.inj ((stepCanon_eq s).symm.trans hs)
  exact .completed _ rfl (outcomeOf_finishOk he hn (uval_enc_min_root h (h.canonRange hc))) rfl

variable (hb : s.busy = true)
include hb

theorem keeps_tsLegendre (he : s.err = .none) (hs : stepLegendre s = .next t) : Keeps (promise .tsLegendre s) t := by
  simp only [promise, legendreRun]
  obtain ⟨hp, rfl⟩ | ⟨hp, hl, rfl⟩ | ⟨hp, hl, rfl⟩ := stepLegendre_next hs
  · exact .completed _ rfl (outcomeOf_finishErr (by decide) s) (if_pos hp)
  · exact .completed _ rfl (outcomeOf_finishNoroot he) (by rw [if_neg hp.ne', if_pos hl])
  · have hodd : uval (enc s.k (opP s - 1)) = (opP s - 1).toNat := by
      have := uval_enc_opP_sub_one h hp
      omega
    refine .goesOn hb ?_
    rw [if_neg hp.ne', if_neg (not_not.mpr hl)]
    exact congrArg (fun o => delay 1 (decompRun (opN s) (opP s) o 0)) hodd.symm

theorem keeps_tsDecomp (hd : AtDecomp s) (hs : stepDecomp s = .next t) : Keeps (promise .tsDecomp s) t := by
  simp only [promise]
  obtain ⟨ho, rfl⟩ | ⟨ho, hex, rfl⟩ | ⟨ho, hex, rfl⟩ := stepDecomp_next hs
  · refine .goesOn hb ((decompRun_of_even ho (odd_ne_zero hd) ..).trans ?_)
    simp only [promise, uval_enc_half_odd h hd, toNat_exponent_add_one h hd]
    rfl
  · have hone : s.exponent.toNat = 1 := by rw [hex]; rfl
    refine .goesOn hb ?_
    rw [decompRun_of_odd ho, pathRun, if_pos hone]
    rfl
  · have hne : s.exponent.toNat ≠ 1 := fun hone => hex (BitVec.eq_of_toNat_eq hone)
    refine .goesOn hb ?_
    rw [decompRun_of_odd ho, pathRun, if_neg hne]
    simp only [promise, uval_enc_two h hd]
    rfl

theorem keeps_tsFast (hs : stepFast s = .next t) : Keeps (promise .tsFast s) t := by
  obtain ⟨hp, rfl⟩ := stepFast_next hs
  refine .goesOn hb ?_
  simp only [promise, uval_enc_modpow h _ _ hp]
  rfl

theorem keeps_tsWscan (hs : stepWscan s = .next t) : Keeps (promise .tsWscan s) t := by
  simp only [promise]
  obtain ⟨hz, rfl⟩ | ⟨hz, hl, rfl⟩ | ⟨hz, hl, rfl⟩ := stepWscan_next hs
  · exact .completed _ rfl (outcomeOf_finishErr (by decide) s) (witnessRun_of_le hz ..)
  · exact .goesOn hb (witnessRun_of_hit hz hl ..)
  · refine .goesOn hb ((witnessRun_of_miss hz hl ..).trans ?_)
    simp only [promise, uval_enc_z_add_one h hz, Nat.cast_add, Nat.cast_one]
    rfl

theorem keeps_tsInit (hs : stepInit s = .next t) : Keeps (promise .tsInit s) t := by
  obtain ⟨hp, rfl⟩ := stepInit_next hs
  refine .goesOn hb ?_
  simp only [promise, initRun, uval_enc_modpow h _ _ hp]
  rfl

theorem keeps_tsLoop (hs : stepLoop s = .next t) : Keeps (promise .tsLoop s) t := by
  obtain ⟨hp, ⟨ht, rfl⟩ | ⟨ht, rfl⟩⟩ := stepLoop_next hs
  · exact .goesOn hb (loopRun_of_one ht ..)
  · refine .goesOn hb ((loopRun_of_ne_one ht ..).trans ?_)
    simp only [promise, uval_enc_modmul h _ _ hp]
    rfl

theorem keeps_tsIscan (hi : AtIscan s) (hs : stepIscan s = .next t) : Keeps (promise .tsIscan s) t := by
  simp only [promise]
  obtain ⟨hmi, rfl⟩ | ⟨him, hp, ⟨hv, rfl⟩ | ⟨hv, rfl⟩⟩ := stepIscan_next hs
  · exact .completed _ rfl (outcomeOf_finishErr (by decide) s) (scanRun_of_le hmi hi.one_le hi.i_le ..)
  · exact .goesOn hb (scanRun_of_hit him hv ..)
  · refine .goesOn hb ((scanRun_of_miss him hv ..).trans ?_)
    simp only [promise, uval_enc_modmul h _ _ hp, toNat_i_add_one him]
    rfl

theorem keeps_tsBcomp (hs : stepBcomp s = .next t) : Keeps (promise .tsBcomp s) t := by
  obtain ⟨-, hp, rfl⟩ := stepBcomp_next hs
  refine .goesOn hb ?_
  simp only [promise, bcompRun, uval_enc_modpow h _ _ hp]
  rfl

theorem keeps_tsUpdate (hs : stepUpdate s = .next t) : Keeps (promise .tsUpdate s) t := by
  obtain ⟨hp, rfl⟩ := stepUpdate_next hs
  refine .goesOn hb ?_
  simp only [promise, updateRun, uval_enc_modmul h _ _ hp]
  rfl

/-- Every engine step of TSQRT keeps the promise. -/
theorem keeps_of_engineStep (hop : s.ctrl.opcode = 3#4) (hs : engineStep s = .next t) :
    Keeps (promise s.ctrl s) t := by
  obtain ⟨-, hn, he, -⟩ := h.running hb
  cases hc : s.ctrl <;> simp only [engineStep, hc] at hs
  case idle => cases hs
  case mpExec | lgExec => rw [hc] at hop; cases hop
  case tsValidate => exact keeps_tsValidate hb hs
  case tsZero => exact keeps_tsZero hb he hn hs
  case tsLegendre => exact keeps_tsLegendre h hb he hs
  case tsDecomp => exact keeps_tsDecomp h hb (atDecomp h (by rw [hc]; rfl)) hs
  case tsFast => exact keeps_tsFast h hb hs
  case tsWscan => exact keeps_tsWscan h hb hs
  case tsInit => exact keeps_tsInit h hb hs
  case tsLoop => exact keeps_tsLoop h hb hs
  case tsIscan => exact keeps_tsIscan h hb (atIscan h hc) hs
  case tsBcomp => exact keeps_tsBcomp h hb hs
  case tsUpdate => exact keeps_tsUpdate h hb hs
  case tsCanon => exact keeps_tsCanon h hc he hn hs

end

/-! ### The run to the completion -/

theorem engineRun_succ {n : Nat} {s t : State} (h : engineTurn s = .next t) :
    engineRun (n + 1) s = engineRun n t := by
  simp only [engineRun, h]

/-- What every turn of the engine keeps, a run of turns keeps. -/
theorem engineRun_induction {P : State → Prop} (hstep : ∀ s t, P s → engineTurn s = .next t → P t) {n : Nat}
    {s u : State} (h : P s) (hu : engineRun n s = .next u) : P u := by
  induction n generalizing s with
  | zero => exact Host.Outcome.next.inj hu ▸ h
  | succ n ih =>
    simp only [engineRun] at hu
    split at hu
    · exact ih (hstep _ _ h ‹_›) hu
    · cases hu
    · cases hu

/-- The command is running in `s`, and completes in `u` after exactly `n` engine steps. -/
structure CompletesIn (n : Nat) (s u : State) : Prop where
  run : engineRun n s = .next u
  idle : u.busy = false
  running : ∀ j < n, ∃ v, engineRun j s = .next v ∧ v.busy = true

theorem CompletesIn.step {n : Nat} {s t u : State} (hb : s.busy = true) (hs : engineStep s = .next t)
    (h : CompletesIn n t u) : CompletesIn (n + 1) s u where
  run := (engineRun_succ ((engineTurn_of_busy hb).trans hs)).trans h.run
  idle := h.idle
  running
    | 0, _ => ⟨s, rfl, hb⟩
    | j + 1, hj => by
      rw [engineRun_succ ((engineTurn_of_busy hb).trans hs)]
      exact h.running j (Nat.lt_of_succ_lt_succ hj)

/-- A running TSQRT completes as its state promises. -/
theorem completesIn_promise {s : State} (h : Inv s) (hb : s.busy = true) (hop : s.ctrl.opcode = 3#4) :
    ∃ u, CompletesIn (promise s.ctrl s).2 s u ∧ outcomeOf u = some (promise s.ctrl s).1 := by
  induction hn : (promise s.ctrl s).2 using Nat.strong_induction_on generalizing s with
  | _ n ih =>
    obtain ⟨t, hs⟩ := engineStep_answers h hb
    have hinv := inv_of_engineStep h hb hs
    cases keeps_of_engineStep h hb hop hs with
    | goesOn hbt hr =>
      have hopt : t.ctrl.opcode = 3#4 := by
        rw [← (hinv.running hbt).2.2.2, (engineCase_of_engineStep hs).hostFrame.lastop, (h.running hb).2.2.2, hop]
      rw [hr, delay_snd, Nat.add_comm] at hn
      obtain ⟨u, hu, ho⟩ := ih _ (by omega) hinv hbt hopt rfl
      exact ⟨u, hn ▸ hu.step hb hs, by rw [hr, ho, delay_fst]⟩
    | completed o hbt ho hr =>
      rw [hr] at hn ⊢
      exact ⟨t, hn ▸ CompletesIn.step hb hs ⟨rfl, hbt, by simp⟩, ho⟩

theorem inv_of_engineTurn {s t : State} (h : Inv s) (hs : engineTurn s = .next t) : Inv t := by
  obtain ⟨-, rfl⟩ | ⟨hb, hs⟩ := engineTurn_next hs
  · exact h
  · exact inv_of_engineStep h hb hs

/-- No root value leaves RESULT at 0 (10_state.md R23, R25). -/
theorem result_of_outcome_ne_ok {u : State} {o : CmdOutcome} (h : Inv u) (ho : outcomeOf u = some o)
    (hne : ∀ v, o ≠ .ok v) : uval u.result = 0 := by
  unfold outcomeOf at ho
  split_ifs at ho with hdone herr hn
  · exact (h.errOutcome herr).2.2
  · exact (h.norootOutcome hn).2.2.2
  · exact absurd (Option.some.inj ho).symm (hne _)

/-- TSQRT accepted on an idle engine completes as the whole-command function says (R98, R100). -/
theorem tsqrt_completesIn {s : State} (h : Inv s) :
    ∃ u, CompletesIn (tsqrtSteps (sval s.k s.opa) (sval s.k s.opb)) (acceptLegal 3#4 .tsValidate s) u ∧
      outcomeOf u = some (tsqrt (sval s.k s.opa) (sval s.k s.opb)) :=
  completesIn_promise (inv_acceptLegal h .tsqrt) rfl rfl

/-- Settles O11: the accepted command promises the whole-command function's outcome and step count, and every engine
step keeps the promise. -/
theorem tsqrtRefinesTheWholeCommand : Obligations.TsqrtRefinesTheWholeCommand := by
  intro s h hb
  obtain ⟨u, hu, ho⟩ := tsqrt_completesIn h
  have hinv := engineRun_induction (fun _ _ => inv_of_engineTurn) (inv_acceptLegal h .tsqrt) hu.run
  exact ⟨_, u, exec_of_idle hb .tsqrt, ⟨rfl, rfl, rfl⟩, hu.run, hu.idle, hinv.busyCtrl.mp hu.idle, ho,
    result_of_outcome_ne_ok hinv ho, hu.running⟩

end Sys2Proof.TsqrtRuns

/-! ## The whole-command function: step bound, smaller root, reduction of the operand, small moduli -/

namespace Sys2Proof.WholeCommand

open Sys2Proof.Machine Sys2Proof.Laws Sys2Proof.Residues Sys2Proof.WholeLoops Sys2Proof.OddPrimes Sys2Proof.ModpowCore
  Sys2Proof.LegendreCommand Sys2Proof.TsqrtRuns

/-! ### The number of engine steps (42_tonelli_shanks.md R100) -/

theorem bcompRun_steps_le {p : Int} {i k : Nat} (h : ∀ root c t, (loopRun p root c t i).2 ≤ k) (root c t : Int)
    (m : Nat) : (bcompRun p root c t m i).2 ≤ 1 + (1 + k) :=
  Nat.add_le_add_left (Nat.add_le_add_left (h ..) 1) 1

/-- The passes' `i + 3` steps add up to at most `m·(m + 2)`, because the passes' `i` fall strictly. -/
theorem loopRun_steps_le (p root c t : Int) (m : Nat) : (loopRun p root c t m).2 ≤ m * (m + 2) + 2 := by
  induction m using Nat.strong_induction_on generalizing root c t with
  | _ m ih =>
    by_cases ht : (t - 1) % p = 0
    · rw [loopRun_of_one ht]
      simp [canonRun]
    · rw [loopRun_of_ne_one ht, delay_snd, scanRun]
      split
      · rename_i hscan
        dsimp only
        rcases Nat.eq_zero_or_pos m with rfl | hm
        · decide
        · have : m * 1 ≤ m * (m + 2) := Nat.mul_le_mul_left m (by omega)
          omega
      · rename_i j hscan
        obtain ⟨h1, hjm⟩ := innerScan_range hscan
        have hpass := bcompRun_steps_le (ih j hjm) root c t m
        have hmono : (j + 1) * (j + 1 + 2) ≤ m * (m + 2) := Nat.mul_le_mul (by omega) (by omega)
        rw [delay_snd, Nat.sub_add_cancel h1]
        linarith

/-- The witness scan takes at most `p − 2` steps to its hit, and the loop starts with EXPONENT in M. -/
theorem witnessRun_steps_le (n : Int) {p : Int} (hp : 2 ≤ p) (odd ex : Nat) :
    (witnessRun n p odd ex 2).2 ≤ p.toNat + ex * (ex + 2) + 2 := by
  unfold witnessRun
  split
  · dsimp only
    omega
  · rename_i w hw
    obtain ⟨h2, hwp, -⟩ := witness_some hw
    have := loopRun_steps_le p (modpow n ((odd + 1) / 2) p) (modpow w odd p) (modpow n odd p) ex
    simp only [initRun, delay_snd]
    omega

/-- The decomposition's count of halvings, for `p − 1 < 2^(W−1)` (R88). -/
theorem halve_snd_le {k o : Nat} (h0 : o ≠ 0) (ho : o < 2 ^ k) : (halve (o.log2 + 1) o 0).2 ≤ k - 1 := by
  have hodd := halve_odd 0 h0 Nat.lt_log2_self
  have hprod := halve_mul_two_pow (o.log2 + 1) o 0
  rw [pow_zero, mul_one] at hprod
  have hpos : 0 < (halve (o.log2 + 1) o 0).1 := by omega
  have hle : 2 ^ (halve (o.log2 + 1) o 0).2 ≤ o := (Nat.le_mul_of_pos_left _ hpos).trans_eq hprod
  have := (Nat.pow_lt_pow_iff_right (by decide)).mp (hle.trans_lt ho)
  omega

theorem decompRun_steps_le (n : Int) {p : Int} {k : Nat} (hp : 2 ≤ p) (hlt : p < 2 ^ k) :
    (decompRun n p (p - 1).toNat 0).2 ≤ k - 1 + p.toNat + (k - 1) * (k - 1 + 2) + 3 := by
  have hlt' : (p - 1).toNat < 2 ^ k := by
    zify
    omega
  have hd := halve_snd_le (by omega : (p - 1).toNat ≠ 0) hlt'
  have hw := witnessRun_steps_le n hp (halve ((p - 1).toNat.log2 + 1) (p - 1).toNat 0).1
    (halve ((p - 1).toNat.log2 + 1) (p - 1).toNat 0).2
  have hmono := Nat.mul_le_mul hd (Nat.add_le_add_right hd 2)
  simp only [decompRun, pathRun, delay_snd, Nat.sub_zero]
  split
  · simp only [fastRun, canonRun, delay_snd]
    omega
  · omega

/-- Settles O13: the halvings, the candidates and the passes are bounded each by its own loop. -/
theorem tsqrtStepsAreBounded : Obligations.TsqrtStepsAreBounded := by
  intro k n p hk hp
  obtain ⟨d, hd⟩ : ∃ d, bitWidth k = d + 2 := ⟨bitWidth k - 2, by unfold bitWidth; omega⟩
  rw [hd] at hp ⊢
  rw [tsqrtSteps, tsqrtRun_eq]
  split_ifs with hneg
  · dsimp only
    omega
  · refine ⟨Nat.le_add_right 1 _, ?_⟩
    simp only [zeroRun, legendreRun, delay_snd]
    split_ifs with hn hp0 hl
    · dsimp only
      omega
    · simp only [delay_snd]
      omega
    · simp only [delay_snd]
      omega
    · have h2 := two_le_of_legendre_eq_one (by omega) (not_not.mp hl)
      have hsteps := decompRun_steps_le n h2 hp
      have hmono : d * (d + 2) ≤ d * (d + 2 + 1) := Nat.mul_le_mul_left d (by omega)
      simp only [delay_snd, Nat.add_sub_cancel, Nat.reduceSubDiff] at hsteps ⊢
      omega

/-! ### The smaller root is one number (R104) -/

theorem isSmallerRoot_unique {q : Nat} [Fact q.Prime] {n r r' : Int} (h : IsSmallerRoot q n r)
    (h' : IsSmallerRoot q n r') : r = r' := by
  have hr0 := h.nonneg
  have hr0' := h'.nonneg
  have hrq := h.lt
  have hrq' := h'.lt
  have hle := h.smaller
  have hle' := h'.smaller
  obtain heq | hneg := sq_eq_sq_iff_eq_or_eq_neg.mp (h.square.trans h'.square.symm)
  · exact (eq_iff_cast_eq hr0 hrq hr0' hrq').mpr heq
  · obtain ⟨d, hd⟩ : (q : Int) ∣ r + r' := by
      rw [← ZMod.intCast_zmod_eq_zero_iff_dvd, Int.cast_add, hneg, neg_add_cancel]
    have h0 : -1 < d := by nlinarith
    have h1 : d < 2 := by nlinarith
    obtain rfl | rfl : d = 0 ∨ d = 1 := by omega
    · omega
    · omega

/-- Settles O14: the square is a residue, so TSQRT answers its smaller root, and `min(n, p − n)` is one too. -/
theorem tsqrtOfASquareIsTheSmallerRoot : Obligations.TsqrtOfASquareIsTheSmallerRoot := by
  intro n p hp hp2 h1 hn
  obtain ⟨q, rfl, hq⟩ := exists_natCast_eq_of_prime hp
  have : Fact q.Prime := ⟨hq⟩
  have h2 : q ≠ 2 := by exact_mod_cast hp2
  have hcast : ((n * n % q : Int) : ZMod q) = (n : ZMod q) * n := by rw [ZMod.intCast_mod, Int.cast_mul]
  have hn0 : (n : ZMod q) ≠ 0 := by
    rw [← emod_ne_zero_iff, Int.emod_eq_of_lt (by omega) (by omega)]
    omega
  have hne : (((n * n % q : Int)) : ZMod q) ≠ 0 := hcast ▸ mul_ne_zero hn0 hn0
  have hleg : legendre (n * n % q) q = 1 := (legendre_eq_one_iff_isSquare h2 _).mpr ⟨hne, n, hcast⟩
  have hmin : IsSmallerRoot q (n * n % q) (min n (q - n)) :=
    isSmallerRoot_min (by omega) (by omega) (by rw [hcast, sq])
  obtain ⟨r, hr, hroot⟩ := tsqrt_of_residue h2 (fun h0 => hne (by rw [h0, Int.cast_zero])) hleg
  refine ⟨by rw [hr, isSmallerRoot_unique hroot hmin], (ZMod.intCast_eq_intCast_iff' _ _ q).mp ?_⟩
  rw [Int.cast_mul, ← sq, hmin.square, hcast, Int.cast_pow, sq]

/-! ### The operand enters through its residue (R103) -/

theorem legendre_emod (n p : Int) : legendre (n % p) p = legendre n p := modpow_emod ..

theorem generalPath_emod (n p : Int) (odd ex : Nat) : generalPath (n % p) p odd ex = generalPath n p odd ex := by
  unfold generalPath
  simp only [modpow_emod]

theorem tsqrtRun_emod {n p : Int} (hn : n ≠ 0) (hn' : n % p ≠ 0) : tsqrtRun (n % p) p = tsqrtRun n p := by
  simp only [tsqrtRun, legendre_emod, generalPath_emod, modpow_emod, hn, hn', if_false]

/-- Settles O16: beside the zero test, the whole-command function uses `n` as the base of `modpow` alone. -/
theorem tsqrtReducesItsOperand : Obligations.TsqrtReducesItsOperand := by
  refine ⟨fun n p _ hn => ?_, by decide, by decide, by decide⟩
  by_cases h0 : n = 0
  · rw [h0, Int.zero_emod]
  · exact congrArg Prod.fst (tsqrtRun_emod h0 (hn.resolve_left h0)).symm

/-! ### The witness scan (R106) -/

/-- Settles O19: the scan goes upwards from 2 and has fuel for every candidate. -/
theorem witnessScanFindsTheSmallest : Obligations.WitnessScanFindsTheSmallest := fun p =>
  ⟨fun _ hz => witness_some hz, fun hnone => witness_none hnone (by omega), by decide, by decide, by decide, by decide,
    by decide, by decide⟩

/-! ### The degenerate moduli (R105) -/

theorem tsqrt_modulus_zero {n : Int} (hn : n ≠ 0) : tsqrt n 0 = .err .modulusZero := by
  simp [tsqrt, tsqrtRun_eq, zeroRun, legendreRun, hn]

/-- Every Legendre value modulo 1 is 0. -/
theorem tsqrt_one {n : Int} (hn : n ≠ 0) : tsqrt n 1 = .noroot :=
  tsqrt_of_legendre_ne_one one_pos hn (by simp [legendre_eq])

/-- Settles O18: the moduli 0, 1 and 2 by their tests, the composite ones by running the function. -/
theorem tsqrtOnDegenerateModuli : Obligations.TsqrtOnDegenerateModuli :=
  ⟨by decide, fun _ => tsqrt_modulus_zero, by decide, fun _ => tsqrt_one, fun _ => tsqrt_two, by decide, by decide,
    by decide, by decide⟩

end Sys2Proof.WholeCommand

/-! ## What the engine is, beside what the host may write -/

namespace Sys2Proof.CoreViews

open Sys2Proof.Machine Sys2Proof.Laws Sys2Proof.StepCases

@[simp] theorem coreView_taken (s : State) (rest : List Input) (a : Response) :
    coreView (taken s rest a) = coreView s := rfl

@[simp] theorem coreView_overrunCmd (s : State) : coreView (overrunCmd s) = coreView s := rfl

@[simp] theorem coreView_writeWide (r : WideReg) (j : Nat) (v : Word) (s : State) :
    coreView (writeWide r j v s) = coreView s := by
  rw [writeWide_eq]
  rfl

end Sys2Proof.CoreViews

/-! ## The invariants of the outer loop -/

namespace Sys2Proof.LoopInvariants

open Sys2Proof.Machine Sys2Proof.Laws Sys2Proof.StepCases Sys2Proof.MachineInvariant Sys2Proof.Residues
  Sys2Proof.OddPrimes Sys2Proof.ModpowCommand Sys2Proof.LegendreCommand Sys2Proof.TsqrtReadings Sys2Proof.CoreViews

/-! ### The steps that matter to the loop -/

/-- An engine step as the outer loop sees it: TS_INIT's, one of the loop's own, or one that ends outside the loop. -/
inductive LoopStep (s t : State) : Prop where
  | init (hc : s.ctrl = .tsInit) (hs : stepInit s = .next t)
  | loop (hc : s.ctrl = .tsLoop) (hs : stepLoop s = .next t)
  | iscan (hc : s.ctrl = .tsIscan) (hs : stepIscan s = .next t)
  | bcomp (hc : s.ctrl = .tsBcomp) (hs : stepBcomp s = .next t)
  | update (hc : s.ctrl = .tsUpdate) (hs : stepUpdate s = .next t)
  | outside (ht : t.ctrl.looping = false)

theorem loopStep_of_engineStep {s t : State} (hs : engineStep s = .next t) : LoopStep s t := by
  cases hc : s.ctrl <;> simp only [engineStep, hc] at hs
  case idle => cases hs
  case mpExec =>
    obtain rfl := Host.Outcome.next.inj ((stepMpExec_eq s).symm.trans hs)
    split_ifs <;> exact .outside rfl
  case lgExec =>
    obtain rfl := Host.Outcome.next.inj ((stepLgExec_eq s).symm.trans hs)
    split_ifs <;> exact .outside rfl
  case tsValidate => obtain ⟨-, rfl⟩ | ⟨-, rfl⟩ := stepValidate_next hs <;> exact .outside rfl
  case tsZero => obtain ⟨-, rfl⟩ | ⟨-, rfl⟩ := stepZero_next hs <;> exact .outside rfl
  case tsLegendre => obtain ⟨-, rfl⟩ | ⟨-, -, rfl⟩ | ⟨-, -, rfl⟩ := stepLegendre_next hs <;> exact .outside rfl
  case tsDecomp => obtain ⟨-, rfl⟩ | ⟨-, -, rfl⟩ | ⟨-, -, rfl⟩ := stepDecomp_next hs <;> exact .outside rfl
  case tsFast => obtain ⟨-, rfl⟩ := stepFast_next hs; exact .outside rfl
  case tsWscan => obtain ⟨-, rfl⟩ | ⟨-, -, rfl⟩ | ⟨-, -, rfl⟩ := stepWscan_next hs <;> exact .outside rfl
  case tsInit => exact .init hc hs
  case tsLoop => exact .loop hc hs
  case tsIscan => exact .iscan hc hs
  case tsBcomp => exact .bcomp hc hs
  case tsUpdate => exact .update hc hs
  case tsCanon =>
    obtain rfl := Host.Outcome.next.inj ((stepCanon_eq s).symm.trans hs)
    exact .outside rfl

/-- A step of the machine leaves the engine as it is, or ends outside the loop, or is an engine step. -/
theorem step_cases {s t : State} (hs : step s = .next t) :
    coreView s = coreView t ∨ t.ctrl.looping = false ∨
      ∃ rest, engineStep (taken s rest s.response) = .next t := by
  cases stepCase_of_step hs with
  | quiet a ht => subst ht; exact .inl rfl
  | operand r j v rest hj hin ht => subst ht; exact .inl (coreView_writeWide r j v (taken s rest _)).symm
  | overrun w rest hb hin ht => subst ht; exact .inl rfl
  | illegal w e rest hb he hin ht => subst ht; exact .inr (.inl rfl)
  | legal i rest hb hin ht => subst ht; cases i <;> exact .inr (.inl rfl)
  | engine hb hin hstep => exact .inr (.inr ⟨_, hstep⟩)
  | reset rest hin ht => subst ht; exact .inr (.inl rfl)

theorem looping_of_scanned {c : CtrlState} (h : c.scanned = true) : c.looping = true := by
  revert h
  cases c <;> decide

/-! ### The loop invariant (42_tonelli_shanks.md R92, R94) -/

/-- TS_INIT's powers have `root² ≡ n·t` (R91). -/
theorem initial_square {o : Nat} (ho : o % 2 = 1) (n p : Int) :
    modpow n ((o + 1) / 2) p * modpow n ((o + 1) / 2) p ≡ n * modpow n o p [ZMOD p] := by
  have he : (o + 1) / 2 + (o + 1) / 2 = o + 1 := by omega
  simp only [modpow_eq_pow_emod]
  calc n ^ ((o + 1) / 2) % p * (n ^ ((o + 1) / 2) % p)
      ≡ n ^ ((o + 1) / 2) * n ^ ((o + 1) / 2) [ZMOD p] := (Int.mod_modEq _ _).mul (Int.mod_modEq _ _)
    _ = n * n ^ o := by rw [← pow_add, he, pow_succ']
    _ ≡ n * (n ^ o % p) [ZMOD p] := (Int.mod_modEq _ _).symm.mul_left _

/-- TS_UPDATE multiplies `root²` and `t` by the same `b²` (R96). -/
theorem updated_square {n p root t : Int} (hsq : root * root ≡ n * t [ZMOD p]) (b : Int) :
    modmul root b p * modmul root b p ≡ n * modmul t (modmul b b p) p [ZMOD p] := by
  simp only [modmul]
  calc root * b % p * (root * b % p)
      ≡ root * b * (root * b) [ZMOD p] := (Int.mod_modEq _ _).mul (Int.mod_modEq _ _)
    _ = root * root * (b * b) := by ring
    _ ≡ n * t * (b * b) [ZMOD p] := hsq.mul_right _
    _ = n * (t * (b * b)) := by ring
    _ ≡ n * (t * (b * b % p) % p) [ZMOD p] :=
        ((Int.mod_modEq _ _).trans ((Int.mod_modEq _ _).mul_left _)).symm.mul_left _

section

variable {s t : State}

theorem loopInv_coreView (s : State) : LoopInv (coreView s) ↔ LoopInv s :=
  ⟨fun h => { h with }, fun h => { h with }⟩

theorem loopInv_congr (hv : coreView s = coreView t) (h : LoopInv s) : LoopInv t :=
  (loopInv_coreView t).mp (hv ▸ (loopInv_coreView s).mpr h)

theorem loopInv_of_not_looping (hc : t.ctrl.looping = false) : LoopInv t where
  rootSquare hl := by simp [hc] at hl
  scanPower hi := by simp [hi, CtrlState.looping] at hc
  scanMiss hi := by
    obtain hi | hi := hi
    · simp [hi, CtrlState.looping] at hc
    · simp [looping_of_scanned hi] at hc
  scanHit hi := by simp [looping_of_scanned hi] at hc

/-- At TS_LOOP only `root² ≡ n·t` is claimed. -/
theorem loopInv_tsLoop (hc : t.ctrl = .tsLoop)
    (hsq : (uval t.root : Int) * uval t.root ≡ opN t * uval t.t [ZMOD opP t]) : LoopInv t where
  rootSquare _ := hsq
  scanPower hi := by simp [hc] at hi
  scanMiss hi := by simp [hc, CtrlState.scanned] at hi
  scanHit hi := by simp [hc, CtrlState.scanned] at hi

theorem loopInv_tsIscan (hc : t.ctrl = .tsIscan)
    (hsq : ((uval t.root : Int) * uval t.root) % opP t = (opN t * uval t.t) % opP t)
    (hpow : (uval t.s : Int) = (uval t.t : Int) ^ 2 ^ t.i.toNat % opP t)
    (hmiss : ∀ j : Nat, 1 ≤ j → j < t.i.toNat → ((uval t.t : Int) ^ 2 ^ j - 1) % opP t ≠ 0) : LoopInv t where
  rootSquare _ := hsq
  scanPower _ := hpow
  scanMiss _ := hmiss
  scanHit hi := by simp [hc, CtrlState.scanned] at hi

theorem loopInv_of_stepInit (h : Inv s) (hi : AtInit s) (hs : stepInit s = .next t) : LoopInv t := by
  obtain ⟨hp, rfl⟩ := stepInit_next hs
  refine loopInv_tsLoop rfl ?_
  simp only [uval_enc_modpow h _ _ hp]
  exact initial_square hi.oddPart ..

theorem loopInv_of_stepLoop (h : Inv s) (hl : LoopInv s) (hc : s.ctrl = .tsLoop) (hs : stepLoop s = .next t) :
    LoopInv t := by
  obtain ⟨hp, ⟨-, rfl⟩ | ⟨-, rfl⟩⟩ := stepLoop_next hs
  · exact loopInv_of_not_looping rfl
  · have hpow : modmul (uval s.t) (uval s.t) (opP s) = (uval s.t : Int) ^ 2 ^ 1 % opP s := by rw [modmul, pow_one, sq]
    exact loopInv_tsIscan rfl (hl.rootSquare (by rw [hc]; rfl)) ((uval_enc_modmul h _ _ hp).trans hpow)
      fun j h1 hj => absurd (show j < 1 from hj) (by omega)

/-- S holds `t^(2^I)`, so the test on S is a test on that power. -/
theorem s_sub_one_emod (hl : LoopInv s) (hc : s.ctrl = .tsIscan) :
    ((uval s.s : Int) - 1) % opP s = ((uval s.t : Int) ^ 2 ^ s.i.toNat - 1) % opP s := by
  rw [hl.scanPower hc, Int.emod_sub_emod]

theorem loopInv_of_stepIscan (h : Inv s) (hl : LoopInv s) (hc : s.ctrl = .tsIscan) (hs : stepIscan s = .next t) :
    LoopInv t := by
  have hsq := hl.rootSquare (by rw [hc]; rfl)
  have hmiss := hl.scanMiss (.inl hc)
  obtain ⟨-, rfl⟩ | ⟨him, hp, ⟨hv, rfl⟩ | ⟨hv, rfl⟩⟩ := stepIscan_next hs
  · exact loopInv_of_not_looping rfl
  · rw [s_sub_one_emod hl hc] at hv
    exact
      { rootSquare := fun _ => hsq, scanPower := by simp, scanMiss := fun _ => hmiss, scanHit := fun _ => hv }
  · rw [s_sub_one_emod hl hc] at hv
    refine loopInv_tsIscan rfl hsq ?_ ?_ <;> simp only [toNat_i_add_one him]
    · rw [uval_enc_modmul h _ _ hp, hl.scanPower hc, modmul, ← Int.mul_emod, ← sq, ← pow_mul, ← pow_succ]
      rfl
    · intro j h1 hj
      rcases Nat.lt_succ_iff_lt_or_eq.mp hj with hj | rfl
      · exact hmiss j h1 hj
      · exact hv

theorem loopInv_of_stepBcomp (hl : LoopInv s) (hc : s.ctrl = .tsBcomp) (hs : stepBcomp s = .next t) : LoopInv t := by
  have hscanned : s.ctrl.scanned = true := by rw [hc]; rfl
  obtain ⟨-, -, rfl⟩ := stepBcomp_next hs
  exact
    { rootSquare := fun _ => hl.rootSquare (looping_of_scanned hscanned)
      scanPower := by simp
      scanMiss := fun _ => hl.scanMiss (.inr hscanned)
      scanHit := fun _ => hl.scanHit hscanned }

theorem loopInv_of_stepUpdate (h : Inv s) (hl : LoopInv s) (hc : s.ctrl = .tsUpdate) (hs : stepUpdate s = .next t) :
    LoopInv t := by
  have hsq := hl.rootSquare (by rw [hc]; rfl)
  obtain ⟨hp, rfl⟩ := stepUpdate_next hs
  refine loopInv_tsLoop rfl ?_
  simp only [uval_enc_modmul h _ _ hp]
  exact updated_square hsq _

theorem loopInv_of_engineStep (h : Inv s) (hl : LoopInv s) (hs : engineStep s = .next t) : LoopInv t := by
  cases loopStep_of_engineStep hs with
  | init hc hs => exact loopInv_of_stepInit h (atInit h (by rw [hc]; rfl)) hs
  | loop hc hs => exact loopInv_of_stepLoop h hl hc hs
  | iscan hc hs => exact loopInv_of_stepIscan h hl hc hs
  | bcomp hc hs => exact loopInv_of_stepBcomp hl hc hs
  | update hc hs => exact loopInv_of_stepUpdate h hl hc hs
  | outside ht => exact loopInv_of_not_looping ht

end

/-- Settles O44: TS_INIT establishes `root² ≡ n·t`, TS_UPDATE multiplies both sides by `b²`, and the scan's S is squared
as I counts; every other step leaves the engine alone or ends outside the loop. -/
theorem stepKeepsTheLoopInvariant : Obligations.StepKeepsTheLoopInvariant := by
  intro s t h hl hs
  obtain hv | hc | ⟨rest, hs⟩ := step_cases hs
  · exact loopInv_congr hv hl
  · exact loopInv_of_not_looping hc
  · exact loopInv_of_engineStep (inv_taken h rest s.response) (loopInv_congr (s := s) rfl hl) hs

/-! ### The prime loop invariant (R92's second bullet, R93, R95) -/

theorem add_one_emod_eq_zero_iff {q : Nat} (x : Int) : (x + 1) % (q : Int) = 0 ↔ (x : ZMod q) = -1 := by
  rw [emod_eq_zero_iff, Int.cast_add, Int.cast_one, eq_neg_iff_add_eq_zero]

/-- The orders of `t` and `c` modulo `p` (R92). -/
def Orders (p t c : Int) (m : Nat) : Prop :=
  1 ≤ m ∧ (t ^ 2 ^ (m - 1) - 1) % p = 0 ∧ (c ^ 2 ^ (m - 1) + 1) % p = 0

theorem orders_iff {q : Nat} (t c : Int) (m : Nat) :
    Orders q t c m ↔ 1 ≤ m ∧ (t : ZMod q) ^ 2 ^ (m - 1) = 1 ∧ (c : ZMod q) ^ 2 ^ (m - 1) = -1 := by
  rw [Orders, sub_one_emod_eq_zero_iff, add_one_emod_eq_zero_iff, Int.cast_pow, Int.cast_pow]

section

variable {q : Nat} [Fact q.Prime]

/-- TS_INIT's powers of a residue and of the witness have these orders (R91, R92). -/
theorem orders_init {n z : Int} {o e : Nat} (h2 : q ≠ 2) (hn : legendre n q = 1) (hz : legendre z q = q - 1)
    (ho : o % 2 = 1) (hprod : (o : Int) * 2 ^ e = q - 1) : Orders q (modpow n o q) (modpow z o q) e := by
  have hodd := mod_two_eq_one h2
  have hpos := two_lt h2
  have he : 1 ≤ e := by
    refine Nat.one_le_iff_ne_zero.mpr fun h0 => ?_
    rw [h0, pow_zero, mul_one] at hprod
    omega
  have hhalf : o * 2 ^ (e - 1) = q / 2 := by
    have hnat : o * 2 ^ (e - 1) * 2 = q - 1 := by
      rw [mul_assoc, ← pow_succ, Nat.sub_add_cancel he]
      zify [(by omega : 1 ≤ q)]
      exact hprod
    omega
  rw [legendre_eq_one_iff h2, ← hhalf] at hn
  rw [legendre_eq_sub_one_iff h2, ← hhalf] at hz
  rw [orders_iff, cast_modpow, cast_modpow, ← pow_mul, ← pow_mul]
  exact ⟨he, hn, hz⟩

/-- TS_UPDATE's `t` and `c` have these orders for the scan's `i` (R95, R96). -/
theorem orders_update {n root c t b : Int} {m i : Nat} (hsq : root * root % q = n * t % q) (ho : Orders q t c m)
    (hi : 1 ≤ i) (him : i < m) (hit : (t ^ 2 ^ i - 1) % (q : Int) = 0) (hmiss : (t ^ 2 ^ (i - 1) - 1) % (q : Int) ≠ 0)
    (hb : b = modpow c (2 ^ (m - i - 1)) q) :
    Orders q (modmul t (modmul b b q) q) (modmul b b q) i := by
  obtain ⟨h1, ht, hc⟩ := (orders_iff t c m).mp ho
  have hfacts : LoopFacts (n : ZMod q) root c t m :=
    { square := by rw [sq, ← Int.cast_mul, ← Int.cast_mul]; exact (ZMod.intCast_eq_intCast_iff' _ _ q).mpr hsq
      pos := h1, orderT := ht, orderC := hc }
  rw [Ne, sub_one_emod_eq_zero_iff, Int.cast_pow] at hmiss
  rw [sub_one_emod_eq_zero_iff, Int.cast_pow] at hit
  have hup := hfacts.update hi him hit hmiss
  rw [orders_iff, cast_modmul, cast_modmul, hb, cast_modpow]
  exact ⟨hi, hup.orderT, hup.orderC⟩

end

section

variable {s t : State}

theorem primeLoopInv_coreView (s : State) : PrimeLoopInv (coreView s) ↔ PrimeLoopInv s :=
  ⟨fun h => { h with }, fun h => { h with }⟩

theorem primeLoopInv_congr (hv : coreView s = coreView t) (h : PrimeLoopInv s) : PrimeLoopInv t :=
  (primeLoopInv_coreView t).mp (hv ▸ (primeLoopInv_coreView s).mpr h)

theorem primeLoopInv_of_not_looping (hc : t.ctrl.looping = false) : PrimeLoopInv t where
  order hl := by simp [hc] at hl
  notOne hi := by
    obtain hi | hi := hi
    · simp [hi, CtrlState.looping] at hc
    · simp [looping_of_scanned hi] at hc
  power hi := by simp [hi, CtrlState.looping] at hc

/-- At TS_LOOP only the orders are claimed. -/
theorem primeLoopInv_tsLoop (hc : t.ctrl = .tsLoop)
    (ho : ∀ q : Nat, opP t = q → q.Prime → q ≠ 2 → Orders q (uval t.t) (uval t.c) t.m.toNat) : PrimeLoopInv t where
  order _ hp hp2 := by
    obtain ⟨q, hq, hprime⟩ := exists_natCast_eq_of_prime hp
    rw [hq] at hp2 ⊢
    exact ho q hq hprime (by exact_mod_cast hp2)
  notOne hi := by simp [hc, CtrlState.scanned] at hi
  power hi := by simp [hc] at hi

theorem primeLoopInv_of_stepInit (h : Inv s) (hi : AtInit s) (hs : stepInit s = .next t) : PrimeLoopInv t := by
  obtain ⟨hp, rfl⟩ := stepInit_next hs
  refine primeLoopInv_tsLoop rfl fun q hq hprime h2 => ?_
  have : Fact q.Prime := ⟨hprime⟩
  have hq : opP s = q := hq
  have hleg := hi.legendre
  have hwit := hi.witness
  have hprod := hi.product
  simp only [uval_enc_modpow h _ _ hp]
  rw [hq] at hleg hwit hprod ⊢
  exact orders_init h2 hleg hwit hi.oddPart hprod

theorem primeLoopInv_of_stepUpdate (h : Inv s) (hl : LoopInv s) (hpl : PrimeLoopInv s) (hc : s.ctrl = .tsUpdate)
    (hs : stepUpdate s = .next t) : PrimeLoopInv t := by
  have hscanned : s.ctrl.scanned = true := by rw [hc]; rfl
  have hlooping := looping_of_scanned hscanned
  have hb := atBcomp h hscanned
  have hmiss : ((uval s.t : Int) ^ 2 ^ (s.i.toNat - 1) - 1) % opP s ≠ 0 := by
    rcases eq_or_lt_of_le hb.one_le with h1 | h1
    · rw [← h1]
      simpa using hpl.notOne (.inr hscanned)
    · exact hl.scanMiss (.inr hscanned) _ (by omega) (by omega)
  have hsq := hl.rootSquare hlooping
  have hhit := hl.scanHit hscanned
  have hpower := hpl.power hc
  have horder := hpl.order hlooping
  obtain ⟨hp, rfl⟩ := stepUpdate_next hs
  refine primeLoopInv_tsLoop rfl fun q hq hprime h2 => ?_
  have : Fact q.Prime := ⟨hprime⟩
  have hq : opP s = q := hq
  simp only [uval_enc_modmul h _ _ hp]
  rw [← modpow_eq_pow_emod] at hpower
  rw [hq] at hmiss hsq hhit hpower horder ⊢
  exact orders_update hsq (horder hprime (by exact_mod_cast h2)) hb.one_le hb.i_lt hhit hmiss hpower

theorem primeLoopInv_of_engineStep (h : Inv s) (hl : LoopInv s) (hpl : PrimeLoopInv s) (hs : engineStep s = .next t) :
    PrimeLoopInv t := by
  cases loopStep_of_engineStep hs with
  | init hc hs => exact primeLoopInv_of_stepInit h (atInit h (by rw [hc]; rfl)) hs
  | loop hc hs =>
    have horder := hpl.order (by rw [hc]; rfl)
    obtain ⟨-, ⟨-, rfl⟩ | ⟨ht, rfl⟩⟩ := stepLoop_next hs
    · exact primeLoopInv_of_not_looping rfl
    · exact { order := fun _ => horder, notOne := fun _ => ht, power := by simp }
  | iscan hc hs =>
    have horder := hpl.order (by rw [hc]; rfl)
    have hone := hpl.notOne (.inl hc)
    obtain ⟨-, rfl⟩ | ⟨-, -, ⟨-, rfl⟩ | ⟨-, rfl⟩⟩ := stepIscan_next hs
    · exact primeLoopInv_of_not_looping rfl
    · exact { order := fun _ => horder, notOne := fun _ => hone, power := by simp }
    · exact { order := fun _ => horder, notOne := fun _ => hone, power := by simp }
  | bcomp hc hs =>
    have horder := hpl.order (by rw [hc]; rfl)
    have hone := hpl.notOne (.inr (by rw [hc]; rfl))
    obtain ⟨-, hp, rfl⟩ := stepBcomp_next hs
    exact
      { order := fun _ => horder
        notOne := fun _ => hone
        power := fun _ => uval_enc_modpow_eq_pow h _ _ hp }
  | update hc hs => exact primeLoopInv_of_stepUpdate h hl hpl hc hs
  | outside ht => exact primeLoopInv_of_not_looping ht

end

/-- Settles O45: in the field of an odd prime modulus TS_INIT's powers have the orders that Euler's criterion gives, and
TS_UPDATE lowers both orders to the scan's `i`. -/
theorem stepKeepsThePrimeLoopInvariant : Obligations.StepKeepsThePrimeLoopInvariant := by
  intro s t h hl hpl hs
  obtain hv | hc | ⟨rest, hs⟩ := step_cases hs
  · exact primeLoopInv_congr hv hpl
  · exact primeLoopInv_of_not_looping hc
  · exact primeLoopInv_of_engineStep (inv_taken h rest s.response) (loopInv_congr (s := s) rfl hl)
      (primeLoopInv_congr (s := s) rfl hpl) hs

end Sys2Proof.LoopInvariants

/-! ## The engine's turns do not depend on the host -/

namespace Sys2Proof.HostIndependence

open Sys2Proof.Machine Sys2Proof.Laws Sys2Proof.StepCases Sys2Proof.EngineCases Sys2Proof.MachineInvariant
  Sys2Proof.Progress Sys2Proof.CoreViews Sys2Proof.TsqrtRuns

/-- The engine of `s` beside what the host has written in `h`. -/
def withHost (h s : State) : State :=
  { s with
    opa := h.opa, opb := h.opb, ope := h.ope, overrun := h.overrun, inputs := h.inputs, response := h.response
    stalled := h.stalled }

@[simp] theorem coreView_withHost (h s : State) : coreView (withHost h s) = coreView s := rfl

theorem withHost_coreView (h s : State) : withHost h (coreView s) = withHost h s := rfl

/-- Two states with one engine differ in the host's part alone. -/
theorem eq_withHost {s s' : State} (hv : coreView s = coreView s') : s' = withHost s' s := by
  calc s' = withHost s' (coreView s') := rfl
    _ = withHost s' (coreView s) := by rw [hv]
    _ = withHost s' s := withHost_coreView ..

/-- A result with its next state changed. -/
def mapNext (f : State → State) : Result → Result
  | .next t => .next (f t)
  | .fault e => .fault e
  | .refused e => .refused e

@[simp] theorem mapNext_next (f : State → State) (t : State) : mapNext f (.next t) = .next (f t) := rfl

@[simp] theorem mapNext_fault (f : State → State) (e : Fault) : mapNext f (.fault e) = .fault e := rfl

@[simp] theorem mapNext_ite (f : State → State) (c : Prop) [Decidable c] (x y : Result) :
    mapNext f (if c then x else y) = if c then mapNext f x else mapNext f y :=
  apply_ite (mapNext f) c x y

@[simp] theorem mapNext_withModulus (f : State → State) (p : Int) (r : Result) :
    mapNext f (withModulus p r) = withModulus p (mapNext f r) :=
  mapNext_ite ..

/-- A state rule's answer is the same whatever the host has written, and leaves that as it is (42_tonelli_shanks.md
R83). -/
theorem engineStep_withHost (h s : State) : engineStep (withHost h s) = mapNext (withHost h) (engineStep s) := by
  have hctrl : (withHost h s).ctrl = s.ctrl := rfl
  unfold engineStep
  rw [hctrl]
  cases s.ctrl
  case idle => rfl
  case mpExec => simp only [stepMpExec, mapNext_ite, mapNext_next]; rfl
  case lgExec => simp only [stepLgExec, mapNext_ite, mapNext_next]; rfl
  case tsValidate => simp only [stepValidate, mapNext_ite, mapNext_next]; rfl
  case tsZero => simp only [stepZero, mapNext_ite, mapNext_next]; rfl
  case tsLegendre => simp only [stepLegendre, mapNext_ite, mapNext_withModulus, mapNext_next]; rfl
  case tsDecomp => simp only [stepDecomp, mapNext_ite, mapNext_next]; rfl
  case tsFast => simp only [stepFast, mapNext_withModulus, mapNext_next]; rfl
  case tsWscan => simp only [stepWscan, mapNext_ite, mapNext_next]; rfl
  case tsInit => simp only [stepInit, mapNext_withModulus, mapNext_next]; rfl
  case tsLoop => simp only [stepLoop, mapNext_ite, mapNext_withModulus, mapNext_next]; rfl
  case tsIscan => simp only [stepIscan, mapNext_ite, mapNext_withModulus, mapNext_next]; rfl
  case tsBcomp => simp only [stepBcomp, mapNext_ite, mapNext_withModulus, mapNext_next, mapNext_fault]; rfl
  case tsUpdate => simp only [stepUpdate, mapNext_withModulus, mapNext_next]; rfl
  case tsCanon => rfl

theorem engineTurn_withHost (h s : State) : engineTurn (withHost h s) = mapNext (withHost h) (engineTurn s) := by
  simp only [engineTurn, mapNext_ite, mapNext_next, engineStep_withHost]
  rfl

/-- Corresponding turns of two machines with one engine. -/
theorem engineTurn_congr {s s' t : State} (hv : coreView s = coreView s') (hs : engineTurn s = .next t) :
    ∃ t', engineTurn s' = .next t' ∧ coreView t = coreView t' := by
  refine ⟨withHost s' t, ?_, rfl⟩
  rw [eq_withHost hv, engineTurn_withHost, hs]
  rfl

theorem engineRun_congr {n : Nat} {s s' u : State} (hv : coreView s = coreView s') (hs : engineRun n s = .next u) :
    ∃ u', engineRun n s' = .next u' ∧ coreView u = coreView u' := by
  induction n generalizing s s' with
  | zero => exact ⟨s', rfl, Host.Outcome.next.inj hs ▸ hv⟩
  | succ n ih =>
    cases hturn : engineTurn s with
    | next t =>
      obtain ⟨t', hturn', hv'⟩ := engineTurn_congr hv hturn
      rw [engineRun_succ hturn] at hs
      rw [engineRun_succ hturn']
      exact ih hv' hs
    | fault e => simp [engineRun, hturn] at hs
    | refused e => simp [engineRun, hturn] at hs

theorem busy_congr {s t : State} (hv : coreView s = coreView t) : s.busy = t.busy :=
  show (coreView s).busy = (coreView t).busy by rw [hv]

theorem hostFrame_of_engineTurn {s t : State} (hs : engineTurn s = .next t) : HostFrame s t := by
  obtain ⟨-, rfl⟩ | ⟨-, hs⟩ := engineTurn_next hs
  · exact {}
  · exact (engineCase_of_engineStep hs).hostFrame

/-- Settles O47: the state rules read no register of the host's, so exchanging these before a turn or after it is the
same; and no rule writes them. -/
theorem engineStepIgnoresTheHost : Obligations.EngineStepIgnoresTheHost := by
  intro s s' hv
  refine ⟨fun t hs => ?_, engineTurn_of_idle⟩
  have hf := hostFrame_of_engineTurn hs
  exact ⟨hf.opa, hf.opb, hf.ope, hf.overrun, hf.inputs, hf.response, hf.stalled, engineTurn_congr hv hs⟩

/-! ### Host accesses between the engine's turns (42_tonelli_shanks.md R101) -/

/-- The machine `t` after a host access of `s` that leaves the engine alone. -/
structure HostTouched (s t : State) : Prop where
  inv : Inv t
  engine : coreView t = coreView s
  inputs : t.inputs = s.inputs
  stalled : t.stalled = s.stalled

theorem hostTouched_taken {s : State} (h : Inv s) (a : Response) : HostTouched s (taken s s.inputs a) :=
  ⟨inv_taken h _ a, rfl, rfl, rfl⟩

theorem hostRead_touches {s : State} (h : Inv s) {off : Offset} {size : Nat} (hw : size = 4 ∧ off.toNat % 4 = 0) :
    ∃ t, hostRead off size s = .next t ∧ HostTouched s t :=
  ⟨_, (hostRead_eq ..).trans (if_pos hw), hostTouched_taken h _⟩

/-- A write leaves the engine alone, unless it is a CMD write on an idle engine. -/
theorem hostWrite_touches {s : State} (h : Inv s) {off : Offset} {size : Nat} (hw : size = 4 ∧ off.toNat % 4 = 0)
    (hcmd : off = offCmd → s.busy = true) (v : Word) : ∃ t, hostWrite off size v s = .next t ∧ HostTouched s t := by
  have htaken := inv_taken h s.inputs .written
  rw [hostWrite_eq, if_pos hw]
  obtain ⟨hg, hwrite⟩ | ⟨r, j, -, hwrite⟩ | ⟨-, -, hwrite⟩ :=
    writeTarget_next v (taken s s.inputs .written) (target s.k off)
  · have hb := hcmd (eq_offCmd_of_target hw.2 hg)
    have hdropped := writeCmd_of_busy (s := taken s s.inputs .written) hb v
    exact ⟨_, hwrite.trans hdropped, inv_overrunCmd htaken, rfl, rfl, rfl⟩
  · exact ⟨_, hwrite, inv_writeWide htaken r j v, coreView_writeWide .., writeWide_inputs .., writeWide_stalled ..⟩
  · exact ⟨_, hwrite, hostTouched_taken h .written⟩

/-- The events that the statement admits: accesses that are no CMD writes, or any accesses while the command runs. -/
def Undisturbing (xs : List Input) (s : State) : Prop :=
  (∀ x ∈ xs, quiet x = true) ∨
    ((∀ x ∈ xs, x.wellFormed = true ∧ x ≠ .reset) ∧ ∃ u, engineRun (engineTurns xs) s = .next u ∧ u.busy = true)

/-- An engine that is busy after its turns was busy before them. -/
theorem busy_of_engineRun {n : Nat} {s u : State} (hs : engineRun n s = .next u) (hu : u.busy = true) :
    s.busy = true := by
  by_contra hb
  have hidle : ∀ s t : State, s.busy = false → engineTurn s = .next t → t.busy = false := by
    intro s t hb hs
    rw [← Host.Outcome.next.inj ((engineTurn_of_idle hb).symm.trans hs), hb]
  have := engineRun_induction hidle (by simpa using hb) hs
  simp [hu] at this

section

variable {x : Input} {rest : List Input} {s t : State}

/-- The first event is the engine's turn, or an access that leaves the engine alone. -/
theorem Undisturbing.head (hx : Undisturbing (x :: rest) s) :
    x.wellFormed = true ∧ x ≠ .reset ∧ (s.busy = false → quiet x = true) := by
  obtain hq | ⟨hwf, u, hu, hub⟩ := hx
  · have hq := hq x List.mem_cons_self
    refine ⟨?_, ?_, fun _ => hq⟩
    · cases x with
      | read off size => exact hq
      | write off size v => exact (Bool.and_eq_true_iff.mp hq).1
      | engine => rfl
      | reset => cases hq
    · rintro rfl
      cases hq
  · have hx := hwf x List.mem_cons_self
    exact ⟨hx.1, hx.2, fun hb => absurd hb (by simp [busy_of_engineRun hu hub])⟩

theorem engineTurns_cons_of_ne (hx : x ≠ .engine) : engineTurns (x :: rest) = engineTurns rest :=
  List.count_cons_of_ne hx

theorem engineTurns_cons_engine : engineTurns (.engine :: rest) = engineTurns rest + 1 := List.count_cons_self

theorem Undisturbing.tail_of_access (hx : Undisturbing (x :: rest) s) (hne : x ≠ .engine)
    (hv : coreView t = coreView s) : Undisturbing rest t := by
  refine hx.imp (fun hq y hy => hq y (.tail _ hy)) ?_
  rintro ⟨hwf, u, hu, hub⟩
  rw [engineTurns_cons_of_ne hne] at hu
  obtain ⟨u', hu', hvu⟩ := engineRun_congr hv.symm hu
  exact ⟨fun y hy => hwf y (.tail _ hy), u', hu', busy_congr hvu ▸ hub⟩

theorem Undisturbing.tail_of_engine {s' : State} (hx : Undisturbing (.engine :: rest) s) (hs : engineTurn s = .next s')
    (hv : coreView s' = coreView t) : Undisturbing rest t := by
  refine hx.imp (fun hq y hy => hq y (.tail _ hy)) ?_
  rintro ⟨hwf, u, hu, hub⟩
  rw [engineTurns_cons_engine, engineRun_succ hs] at hu
  obtain ⟨u', hu', hvu⟩ := engineRun_congr hv hu
  exact ⟨fun y hy => hwf y (.tail _ hy), u', hu', busy_congr hvu ▸ hub⟩

/-- An access that is listed next touches the host's part alone. -/
theorem step_of_access (h : Inv s) (hin : s.inputs = x :: rest) (hx : Undisturbing (x :: rest) s) (hne : x ≠ .engine) :
    ∃ t, step s = .next t ∧ HostTouched (taken s rest s.response) t := by
  obtain ⟨hwf, hreset, hquiet⟩ := hx.head
  have htaken := inv_taken h rest s.response
  rw [step_cons hin]
  cases x with
  | read off size => exact hostRead_touches htaken (of_decide_eq_true hwf)
  | write off size v =>
    refine hostWrite_touches htaken (of_decide_eq_true hwf) (fun hcmd => ?_) v
    by_contra hb
    have hq : quiet (.write off size v) = true := hquiet (Bool.eq_false_iff.mpr hb)
    simp [quiet, hcmd] at hq
  | engine => exact absurd rfl hne
  | reset => exact absurd rfl hreset

theorem step_of_engine (h : Inv s) (hin : s.inputs = .engine :: rest) :
    ∃ s' t, engineTurn s = .next s' ∧ step s = .next t ∧ Inv t ∧ t.inputs = rest ∧ coreView s' = coreView t := by
  obtain ⟨s', hs'⟩ := engineTurn_answers h
  obtain ⟨t, ht, hv⟩ := engineTurn_congr (s := s) (s' := taken s rest s.response) rfl hs'
  exact ⟨s', t, hs', (step_cons hin).trans ht, inv_of_engineTurn (inv_taken h rest s.response) ht,
    (hostFrame_of_engineTurn ht).inputs, hv⟩

end

/-- The engine comes through the listed events as it would through its own turns among them alone. -/
theorem run_of_undisturbing {xs : List Input} {s : State} (h : Inv s) (hin : s.inputs = xs) (hx : Undisturbing xs s) :
    ∃ t u, Host.Core.run Sys2Proof.core xs.length s = .next t ∧ t.inputs = [] ∧
      engineRun (engineTurns xs) s = .next u ∧ coreView t = coreView u := by
  induction xs generalizing s with
  | nil => exact ⟨s, s, rfl, hin, rfl, rfl⟩
  | cons x rest ih =>
    by_cases hne : x = .engine
    · subst hne
      obtain ⟨s', t, hs', ht, hinv, hrest, hv⟩ := step_of_engine h hin
      obtain ⟨t', u, hrun, hend, hu, hvu⟩ := ih hinv hrest (hx.tail_of_engine hs' hv)
      obtain ⟨u', hu', hv'⟩ := engineRun_congr hv.symm hu
      exact ⟨t', u', (core_run_succ ht).trans hrun, hend,
        by rw [engineTurns_cons_engine, engineRun_succ hs', hu'], hvu.trans hv'⟩
    · obtain ⟨t, ht, htouch⟩ := step_of_access h hin hx hne
      have hv : coreView t = coreView s := htouch.engine
      obtain ⟨t', u, hrun, hend, hu, hvu⟩ := ih htouch.inv htouch.inputs (hx.tail_of_access hne hv)
      obtain ⟨u', hu', hv'⟩ := engineRun_congr hv hu
      exact ⟨t', u', (core_run_succ ht).trans hrun, hend, by rw [engineTurns_cons_of_ne hne, hu'], hvu.trans hv'⟩

/-- Settles O48: by the list of events; an access changes nothing of the engine, and its turns do not depend on the
rest. -/
theorem hostAccessesCannotDisturbACommand : Obligations.HostAccessesCannotDisturbACommand :=
  fun _ _ h hin hx => run_of_undisturbing h hin hx

end Sys2Proof.HostIndependence

/-! ## Under weak fairness every command completes -/

namespace Sys2Proof.FairCommands

open Sys2Proof.Machine Sys2Proof.Laws Sys2Proof.EngineCases Sys2Proof.MachineInvariant Sys2Proof.Progress
  Sys2Proof.HostSteps Sys2Proof.Termination Sys2Proof.FairRuns Sys2Proof.HostIndependence

/-- A label that a program defines has a place. -/
theorem exists_labelIndex {prog : List HostStmt} {l : Nat} (h : labelCount prog l = 1) :
    ∃ a, labelIndex prog l = some a := by
  rw [labelCount] at h
  obtain ⟨st, hst⟩ : ∃ st, st ∈ prog.filter (· == .label l) := List.exists_mem_of_length_pos (by omega)
  obtain ⟨hmem, hlabel⟩ := List.mem_filter.mp hst
  exact Option.isSome_iff_exists.mp (List.findIdx?_isSome.trans (List.any_eq_true.mpr ⟨st, hmem, hlabel⟩))

/-- The system `w` after a turn of the host of `z` that leaves the engine alone. -/
structure HostMoved (z w : System) : Prop where
  prog : w.host.prog = z.host.prog
  inv : Inv w.dev
  engine : coreView w.dev = coreView z.dev

section

variable {z : System} (h : Inv z.dev) (hb : z.dev.busy = true)
include h hb

/-- A well-formed statement is answered, and a running command does not notice it. -/
theorem hostStmt_moves {st : HostStmt} (hst : st.wellFormed z.host.prog = true) :
    ∃ w, hostStmt st z = .next w ∧ HostMoved z w := by
  have stay (host : HostRun) (hp : host.prog = z.host.prog) : HostMoved z { z with host := host } := ⟨hp, h, rfl⟩
  have store {off : Offset} (hw : (4 : Nat) = 4 ∧ off.toNat % 4 = 0) (v : Int) :
      ∃ w, hostStmt (.sw off v) z = .next w ∧ HostMoved z w := by
    obtain ⟨t, ht, htouch⟩ := hostWrite_touches h hw (fun _ => hb) (BitVec.ofInt 32 v)
    exact ⟨⟨z.host.advance, t⟩, by simp only [hostStmt, ht, afterAccess], rfl, htouch.inv, htouch.engine⟩
  cases st with
  | sw off v => exact store (of_decide_eq_true hst) v
  | lw x off =>
    have hw : (4 : Nat) = 4 ∧ off.toNat % 4 = 0 := of_decide_eq_true hst
    exact ⟨_, hostStmt_lw hw.2 x z, ⟨rfl, inv_taken h _ _, rfl⟩⟩
  | command i => exact hostStmt_command i z ▸ store (by decide) _
  | label l => exact ⟨_, rfl, stay _ rfl⟩
  | bnz x mask l =>
    obtain ⟨a, ha⟩ := exists_labelIndex (eq_of_beq hst)
    by_cases hzero : getVar z.host.vars x &&& mask.toNat = 0
    · exact ⟨_, hostStmt_bnz_of_zero hzero l, stay _ rfl⟩
    · exact ⟨_, hostStmt_bnz_of_ne_zero hzero ha, stay _ rfl⟩
  | sum x parts => exact ⟨_, rfl, stay _ rfl⟩
  | halt => exact ⟨_, rfl, stay _ rfl⟩

theorem hostTurn_moves (hwf : programWellFormed z.host.prog = true) :
    ∃ w, hostTurn z = .next w ∧ HostMoved z w := by
  have stay : HostMoved z z := ⟨rfl, h, rfl⟩
  cases hrun : z.host.halted with
  | true => exact ⟨z, by simp [hostTurn, hrun], stay⟩
  | false =>
    cases hst : z.host.prog[z.host.pc]? with
    | none => exact ⟨z, by simp [hostTurn, hrun, hst], stay⟩
    | some st =>
      rw [hostTurn_of_stmt hrun hst]
      exact hostStmt_moves h hb (List.all_eq_true.mp hwf st (List.mem_of_getElem? hst))

end

/-- The engine's step completes the command, or goes on with it nearer to its end. -/
theorem engineStep_completes_or_lowers {s : State} (h : Inv s) (hb : s.busy = true) :
    ∃ t, engineStep s = .next t ∧ Inv t ∧ HostFrame s t ∧
      (t.busy = false ∧ t.done = true ∧ t.ctrl = .idle ∨
        t.busy = true ∧ rankAt t.ctrl t < rankAt s.ctrl s) := by
  obtain ⟨t, ht⟩ := engineStep_answers h hb
  have hcase := engineCase_of_engineStep ht
  refine ⟨t, ht, inv_of_engineStep h hb ht, hcase.hostFrame, ?_⟩
  obtain ⟨hbusy, -⟩ | ⟨hidle, hdone, hctrl, -⟩ := hcase.goesOn_or_completes
  · exact .inr ⟨hbusy.trans hb, rankAt_lt_of_engineStep h ht⟩
  · exact .inl ⟨hidle, hdone, hctrl⟩

/-- The latches of `s` are those of `s₀` (10_state.md R28). -/
structure SameLatches (s₀ s : State) : Prop where
  ln : s.ln = s₀.ln
  lp : s.lp = s₀.lp
  le : s.le = s₀.le

theorem SameLatches.of_coreView {s₀ s t : State} (h : SameLatches s₀ s) (hv : coreView t = coreView s) :
    SameLatches s₀ t where
  ln := Eq.trans (show (coreView t).ln = (coreView s).ln by rw [hv]) h.ln
  lp := Eq.trans (show (coreView t).lp = (coreView s).lp by rw [hv]) h.lp
  le := Eq.trans (show (coreView t).le = (coreView s).le by rw [hv]) h.le

theorem SameLatches.of_hostFrame {s₀ s t : State} (h : SameLatches s₀ s) (hf : HostFrame s t) : SameLatches s₀ t :=
  ⟨hf.ln.trans h.ln, hf.lp.trans h.lp, hf.le.trans h.le⟩

/-- The command accepted in `s₀` is running. -/
structure CommandRuns (s₀ : State) (z : System) : Prop where
  inv : Inv z.dev
  busy : z.dev.busy = true
  prog : programWellFormed z.host.prog = true
  latches : SameLatches s₀ z.dev

/-- The command accepted in `s₀` has completed. -/
structure CommandDone (s₀ : State) (z : System) : Prop where
  busy : z.dev.busy = false
  done : z.dev.done = true
  ctrl : z.dev.ctrl = .idle
  latches : SameLatches s₀ z.dev

/-- The rank is the engine's own. -/
theorem rankAt_congr {s t : State} (hv : coreView t = coreView s) : rankAt t.ctrl t = rankAt s.ctrl s := by
  have hview (s : State) : rankAt (coreView s).ctrl (coreView s) = rankAt s.ctrl s := by
    change rankAt s.ctrl (coreView s) = rankAt s.ctrl s
    cases s.ctrl <;> rfl
  rw [← hview s, ← hview t, hv]

/-- A turn of the host leaves the command and its rank as they are; the engine's completes it or lowers its rank. -/
theorem CommandRuns.turn {s₀ : State} {z : System} (h : CommandRuns s₀ z) {tu : Turn} (htu : tu ≠ .reset) :
    ∃ w, systemTurn tu z = .next w ∧
      (CommandDone s₀ w ∨ CommandRuns s₀ w ∧
        (rankAt w.dev.ctrl w.dev < rankAt z.dev.ctrl z.dev ∨
          rankAt w.dev.ctrl w.dev = rankAt z.dev.ctrl z.dev ∧ Turn.engine = .engine ∧ tu ≠ .engine)) := by
  cases tu with
  | host =>
    obtain ⟨w, hw, hmoved⟩ := hostTurn_moves h.inv h.busy h.prog
    refine ⟨w, hw, .inr ⟨?_, .inr ⟨rankAt_congr hmoved.engine, rfl, by decide⟩⟩⟩
    exact
      { inv := hmoved.inv, busy := (busy_congr hmoved.engine).trans h.busy, prog := hmoved.prog ▸ h.prog
        latches := h.latches.of_coreView hmoved.engine }
  | engine =>
    obtain ⟨t, ht, hinv, hframe, hend⟩ := engineStep_completes_or_lowers h.inv h.busy
    have hlatches := h.latches.of_hostFrame hframe
    refine ⟨{ z with dev := t }, by simp only [systemTurn, engineTurn_of_busy h.busy, ht, afterAccess], ?_⟩
    exact hend.imp (fun ⟨hb, hdone, hctrl⟩ => ⟨hb, hdone, hctrl, hlatches⟩)
      fun ⟨hb, hlt⟩ => ⟨⟨hinv, hb, h.prog, hlatches⟩, .inl hlt⟩
  | reset => exact absurd rfl htu

/-- Where nothing is listed, the machine's own run completes its command. -/
theorem run_completes {s : State} (h : Inv s) (hb : s.busy = true) (hin : s.inputs = []) (hst : s.stalled = false) :
    ∃ n t, Host.Core.run Sys2Proof.core n s = .next t ∧ t.busy = false ∧ t.done = true ∧ t.ctrl = .idle := by
  induction hr : rankAt s.ctrl s using WellFoundedLT.induction generalizing s with
  | ind r lower =>
    obtain ⟨t, ht, hinv, hframe, hend⟩ := engineStep_completes_or_lowers h hb
    have hstep : step s = .next t := by rw [step_nil hin, hst, engineTurn_of_busy hb, ← ht]; rfl
    obtain hdone | ⟨hbt, hlt⟩ := hend
    · exact ⟨1, t, core_run_succ hstep, hdone⟩
    · obtain ⟨n, u, hu, hdone⟩ :=
        lower _ (hr ▸ hlt) hinv hbt (hframe.inputs.trans hin) (hframe.stalled.trans hst) rfl
      exact ⟨n + 1, u, (core_run_succ hstep).trans hu, hdone⟩

/-- Settles O50: every engine step lowers the command's rank and no turn of the host raises it, so the turns that weak
fairness brings reach the completion. -/
theorem fairRunsCompleteEveryCommand : Obligations.FairRunsCompleteEveryCommand := by
  refine ⟨fun y sch h hb hwf hreset hfair => ?_, fun _ => run_completes⟩
  obtain ⟨n, z, hz, hdone⟩ := exists_systemAt_of_rank (P := CommandRuns y.dev) (Q := CommandDone y.dev)
    (fun z => rankAt z.dev.ctrl z.dev) (fun _ => .engine) (fun n _ hz => hz.turn (hreset n))
    (fun n z hz hrun => hfair n z hz hrun.busy) (n := 0) rfl ⟨h, hb, hwf, rfl, rfl, rfl⟩
  exact ⟨n, z, hz, hdone.busy, hdone.done, hdone.ctrl, hdone.latches.ln, hdone.latches.lp, hdone.latches.le⟩

end Sys2Proof.FairCommands

/-! ## TSQRT's state rules, one by one -/

namespace Sys2Proof.StateRules

open Sys2Proof.Machine Sys2Proof.Laws Sys2Proof.EngineCases Sys2Proof.MachineInvariant Sys2Proof.Progress
  Sys2Proof.ModpowCommand Sys2Proof.LegendreCommand Sys2Proof.TsqrtReadings Sys2Proof.TsqrtRuns Sys2Proof.Residues

section

variable {s : State} (h : Inv s)
include h

theorem busy_of_ctrl (hc : s.ctrl ≠ .idle) : s.busy = true := by
  by_contra hb
  exact hc (h.busyCtrl.mp (Bool.eq_false_iff.mpr hb))

/-- Outside IDLE the engine's turn is the step of its state (42_tonelli_shanks.md R83). -/
theorem exists_turn (hc : s.ctrl ≠ .idle) : ∃ t, engineTurn s = .next t ∧ engineStep s = .next t := by
  have hb := busy_of_ctrl h hc
  obtain ⟨t, ht⟩ := engineStep_answers h hb
  exact ⟨t, (engineTurn_of_busy hb).trans ht, ht⟩

theorem noroot_eq_false (hc : s.ctrl ≠ .idle) : s.noroot = false := (h.running (busy_of_ctrl h hc)).2.1

theorem err_eq_none (hc : s.ctrl ≠ .idle) : s.err = .none := (h.running (busy_of_ctrl h hc)).2.2.1

/-- NoRootSignal completes the command without an error (00_scope.md R12). -/
theorem completesFrom_finishNoroot (hc : s.ctrl ≠ .idle) (l : Wide) :
    CompletesFrom { s with l := l } (finishNoroot { s with l := l }) .none true 0 :=
  { busy := rfl, done := rfl, ctrl := rfl, err := show s.err = .none from err_eq_none h hc, noroot := rfl
    result := by simp, frame := rfl }

/-! ### TS_VALIDATE, TS_ZERO and TS_LEGENDRE (R85 to R87) -/

theorem turn_tsValidate (hc : s.ctrl = .tsValidate) : ∃ t, engineTurn s = .next t ∧
    (opP s < 0 → CompletesFrom s t .value false 0) ∧ (0 ≤ opP s → t = { s with ctrl := .tsZero }) := by
  have hrun : s.ctrl ≠ .idle := by rw [hc]; decide
  obtain ⟨t, ht, hs⟩ := exists_turn h hrun
  simp only [engineStep, hc] at hs
  obtain ⟨hp, rfl⟩ | ⟨hp, rfl⟩ := stepValidate_next hs
  · exact ⟨_, ht, fun _ => completesFrom_finishErr .value (noroot_eq_false h hrun), fun h0 => absurd hp h0.not_gt⟩
  · exact ⟨_, ht, fun hneg => absurd hneg hp.not_gt, fun _ => rfl⟩

theorem turn_tsZero (hc : s.ctrl = .tsZero) : ∃ t, engineTurn s = .next t ∧
    (opN s = 0 → CompletesFrom s t .none false 0) ∧ (opN s ≠ 0 → t = { s with ctrl := .tsLegendre }) := by
  have hrun : s.ctrl ≠ .idle := by rw [hc]; decide
  obtain ⟨t, ht, hs⟩ := exists_turn h hrun
  simp only [engineStep, hc] at hs
  obtain ⟨hn, rfl⟩ | ⟨hn, rfl⟩ := stepZero_next hs
  · exact ⟨_, ht, fun _ => completesFrom_finishOk (err_eq_none h hrun) (noroot_eq_false h hrun) (by simp),
      fun hne => absurd hn hne⟩
  · exact ⟨_, ht, fun h0 => absurd h0 hn, fun _ => rfl⟩

theorem turn_tsLegendre (hc : s.ctrl = .tsLegendre) : ∃ t, engineTurn s = .next t ∧
    (opP s = 0 → CompletesFrom s t .modulusZero false 0) ∧
    (1 ≤ opP s →
      (uval t.l : Int) = opN s ^ ((opP s - 1) / 2).toNat % opP s ∧
      (uval t.l ≠ 1 → CompletesFrom { s with l := t.l } t .none true 0) ∧
      (uval t.l = 1 →
        2 ≤ opP s ∧ (uval t.odd : Int) = opP s - 1 ∧
        t = { s with l := t.l, odd := t.odd, exponent := 0#32, ctrl := .tsDecomp })) := by
  have hrun : s.ctrl ≠ .idle := by rw [hc]; decide
  obtain ⟨t, ht, hs⟩ := exists_turn h hrun
  simp only [engineStep, hc] at hs
  refine ⟨t, ht, ?_⟩
  rw [← legendre_eq]
  obtain ⟨hp, rfl⟩ | ⟨hp, hl, rfl⟩ | ⟨hp, hl, rfl⟩ := stepLegendre_next hs
  · exact ⟨fun _ => completesFrom_finishErr .modulusZero (noroot_eq_false h hrun), fun h1 => by omega⟩
  · have hval := uval_enc_legendre h (opN s) hp
    refine ⟨fun h0 => by omega, fun _ => ⟨hval, fun _ => completesFrom_finishNoroot h hrun _, fun h1 => ?_⟩⟩
    exact absurd (hval.symm.trans (by exact_mod_cast h1)) hl
  · have hval := uval_enc_legendre h (opN s) hp
    refine ⟨fun h0 => by omega, fun _ => ⟨hval, fun hne => ?_, fun _ => ?_⟩⟩
    · exact absurd (show uval (enc s.k (legendre (opN s) (opP s))) = 1 by exact_mod_cast hval.trans hl) hne
    · exact ⟨two_le_of_legendre_eq_one hp hl, uval_enc_opP_sub_one h hp, rfl⟩

end

/-- Settles O21: each of the three rules by its branches; a Legendre value of 1 needs `p ≥ 2`. -/
theorem validationAndResidueStates : Obligations.ValidationAndResidueStates := fun _ h =>
  ⟨turn_tsValidate h, turn_tsZero h, turn_tsLegendre h⟩

/-! ### TS_DECOMP and TS_FAST (R88, R89) -/

section

variable {s : State} (h : Inv s)
include h

theorem turn_tsDecomp (hc : s.ctrl = .tsDecomp) : ∃ t, engineTurn s = .next t ∧
    (uval s.odd % 2 = 0 →
      uval t.odd = uval s.odd / 2 ∧ t.exponent.toNat = s.exponent.toNat + 1 ∧
      t = { s with odd := t.odd, exponent := t.exponent }) ∧
    (uval s.odd % 2 = 1 → (uval s.odd : Int) * 2 ^ s.exponent.toNat = opP s - 1) ∧
    (uval s.odd % 2 = 1 → s.exponent.toNat = 1 → t = { s with ctrl := .tsFast }) ∧
    (uval s.odd % 2 = 1 → s.exponent.toNat ≠ 1 → uval t.z = 2 ∧ t = { s with z := t.z, ctrl := .tsWscan }) := by
  have hd : AtDecomp s := atDecomp h (by rw [hc]; rfl)
  obtain ⟨t, ht, hs⟩ := exists_turn h (by rw [hc]; decide)
  simp only [engineStep, hc] at hs
  refine ⟨t, ht, ?_⟩
  obtain ⟨heven, rfl⟩ | ⟨hodd, hone, rfl⟩ | ⟨hodd, hne, rfl⟩ := stepDecomp_next hs
  · exact ⟨fun _ => ⟨uval_enc_half_odd h hd, toNat_exponent_add_one h hd, by rw [← hc]⟩, fun _ => hd.product,
      fun hodd => by omega, fun hodd => by omega⟩
  · exact ⟨fun heven => by omega, fun _ => hd.product, fun _ _ => rfl,
      fun _ hne => absurd (congrArg BitVec.toNat hone) hne⟩
  · exact ⟨fun heven => by omega, fun _ => hd.product, fun _ hone => absurd (BitVec.eq_of_toNat_eq hone) hne,
      fun _ _ => ⟨uval_enc_two h hd, rfl⟩⟩

theorem turn_tsFast (hc : s.ctrl = .tsFast) : ∃ t, engineTurn s = .next t ∧
    (uval t.root : Int) = opN s ^ ((opP s + 1) / 4).toNat % opP s ∧ (opP s + 1) % 4 = 0 ∧
    t = { s with root := t.root, ctrl := .tsCanon } := by
  have hd : Decomposed s := decomposed h (by rw [hc]; rfl)
  have h4 : (opP s + 1) % 4 = 0 := by
    have hprod := hd.product
    have hodd := hd.oddPart
    rw [h.fastPath hc, show (2 : Int) ^ (1#32).toNat = 2 from rfl] at hprod
    omega
  obtain ⟨t, ht, hs⟩ := exists_turn h (by rw [hc]; decide)
  simp only [engineStep, hc] at hs
  obtain ⟨hp, rfl⟩ := stepFast_next hs
  exact ⟨_, ht, uval_enc_modpow_eq_pow h _ _ hp, h4, rfl⟩

end

/-- The runs of TS_DECOMP: one for each halving that is left, and the one that leaves it. -/
theorem run_tsDecomp {s : State} (h : Inv s) (hc : s.ctrl = .tsDecomp) :
    ∃ (d : Nat) (t : State), engineRun (d + 1) s = .next t ∧ t.exponent.toNat = s.exponent.toNat + d ∧
      (t.ctrl = .tsFast ∨ t.ctrl = .tsWscan) ∧ ∀ j ≤ d, ∃ u, engineRun j s = .next u ∧ u.ctrl = .tsDecomp := by
  induction ho : uval s.odd using Nat.strong_induction_on generalizing s with
  | _ o halved =>
    subst ho
    obtain ⟨t, ht, heven, -, hfast, hscan⟩ := turn_tsDecomp h hc
    have here : ∃ u, engineRun 0 s = .next u ∧ u.ctrl = .tsDecomp := ⟨s, rfl, hc⟩
    obtain hmod | hmod := Nat.mod_two_eq_zero_or_one (uval s.odd)
    · obtain ⟨hodd, hexp, hframe⟩ := heven hmod
      have hct : t.ctrl = .tsDecomp := by rw [hframe, hc]
      have hne := odd_ne_zero (atDecomp h (by rw [hc]; rfl))
      obtain ⟨d, u, hu, hexpu, hcu, hbefore⟩ := halved (uval t.odd) (by omega) (inv_of_engineTurn h ht) hct rfl
      refine ⟨d + 1, u, (engineRun_succ ht).trans hu, by omega, hcu, fun j hj => ?_⟩
      cases j with
      | zero => exact here
      | succ j => exact engineRun_succ ht ▸ hbefore j (by omega)
    · refine ⟨0, t, engineRun_succ ht, ?_, ?_, fun j hj => Nat.le_zero.mp hj ▸ here⟩ <;>
        by_cases hone : s.exponent.toNat = 1
      · rw [hfast hmod hone, Nat.add_zero]
      · rw [(hscan hmod hone).2, Nat.add_zero]
      · exact .inl (by rw [hfast hmod hone])
      · exact .inr (by rw [(hscan hmod hone).2])

/-- Settles O22: each rule by its branches, and TS_DECOMP's runs by the halvings that are left. -/
theorem decompositionAndFastStates : Obligations.DecompositionAndFastStates := by
  refine fun s h => ⟨turn_tsDecomp h, fun hc hzero => ?_, turn_tsFast h⟩
  obtain ⟨d, t, hrun, hexp, hct, hbefore⟩ := run_tsDecomp h hc
  exact ⟨d, t, hrun, by omega, hct, hbefore⟩

/-! ### TS_WSCAN and TS_INIT (R90, R91) -/

section

variable {s : State} (h : Inv s)
include h

/-- On an odd prime the scan has not passed its witness: there is one, and no candidate below Z is one (R90). -/
theorem z_lt_of_prime (hc : s.ctrl = .tsWscan) (hp : Nat.Prime (opP s).toNat) (hp2 : opP s ≠ 2) :
    (uval s.z : Int) < opP s := by
  have hsmallest := (atWscan h hc).smallest
  obtain ⟨q, hq, hprime⟩ := exists_natCast_eq_of_prime hp
  have : Fact q.Prime := ⟨hprime⟩
  rw [hq] at hp2 hsmallest ⊢
  obtain ⟨y, hy2, hyq, hy⟩ := exists_legendre_eq_sub_one (q := q) (by exact_mod_cast hp2)
  lift y to Nat using by omega
  by_contra hz
  exact hsmallest y (by omega) (by omega) hy

theorem turn_tsWscan (hc : s.ctrl = .tsWscan) : ∃ t, engineTurn s = .next t ∧
    (∀ y : Nat, 2 ≤ y → y < uval s.z → legendre y (opP s) ≠ opP s - 1) ∧
    (Nat.Prime (opP s).toNat → opP s ≠ 2 → (uval s.z : Int) < opP s) ∧
    (opP s ≤ uval s.z → CompletesFrom s t .witnessNotFound false 0) ∧
    ((uval s.z : Int) < opP s →
      ((uval s.z : Int) ^ ((opP s - 1) / 2).toNat % opP s = opP s - 1 → t = { s with ctrl := .tsInit }) ∧
      ((uval s.z : Int) ^ ((opP s - 1) / 2).toNat % opP s ≠ opP s - 1 →
        uval t.z = uval s.z + 1 ∧ t = { s with z := t.z })) := by
  have hrun : s.ctrl ≠ .idle := by rw [hc]; decide
  obtain ⟨t, ht, hs⟩ := exists_turn h hrun
  simp only [engineStep, hc] at hs
  refine ⟨t, ht, (atWscan h hc).smallest, z_lt_of_prime h hc, ?_⟩
  rw [← legendre_eq]
  obtain ⟨hz, rfl⟩ | ⟨hz, hl, rfl⟩ | ⟨hz, hl, rfl⟩ := stepWscan_next hs
  · exact ⟨fun _ => completesFrom_finishErr .witnessNotFound (noroot_eq_false h hrun), fun hlt => absurd hlt hz.not_gt⟩
  · exact ⟨fun hle => absurd hz hle.not_gt, fun _ => ⟨fun _ => rfl, fun hne => absurd hl hne⟩⟩
  · exact ⟨fun hle => absurd hz hle.not_gt, fun _ => ⟨fun heq => absurd heq hl,
      fun _ => ⟨uval_enc_z_add_one h hz, by rw [← hc]⟩⟩⟩

theorem turn_tsInit (hc : s.ctrl = .tsInit) : ∃ t, engineTurn s = .next t ∧
    (uval t.c : Int) = (uval s.z : Int) ^ uval s.odd % opP s ∧
    (uval t.root : Int) = opN s ^ ((uval s.odd + 1) / 2) % opP s ∧ (uval s.odd + 1) % 2 = 0 ∧
    (uval t.t : Int) = opN s ^ uval s.odd % opP s ∧
    t = { s with c := t.c, root := t.root, t := t.t, m := s.exponent, ctrl := .tsLoop } := by
  have hodd := (atInit h (by rw [hc]; rfl)).oddPart
  obtain ⟨t, ht, hs⟩ := exists_turn h (by rw [hc]; decide)
  simp only [engineStep, hc] at hs
  obtain ⟨hp, rfl⟩ := stepInit_next hs
  exact ⟨_, ht, uval_enc_modpow_eq_pow h _ _ hp, uval_enc_modpow_eq_pow h _ _ hp, by omega,
    uval_enc_modpow_eq_pow h _ _ hp, rfl⟩

end

/-- Settles O23: each rule by its branches; on an odd prime a non-residue lies in the scan's range. -/
theorem witnessAndInitStates : Obligations.WitnessAndInitStates := fun _ h => ⟨turn_tsWscan h, turn_tsInit h⟩

/-! ### TS_LOOP and TS_ISCAN (R93, R94) -/

theorem three_le_opP {s : State} (hi : AtInit s) : 3 ≤ opP s := by
  have h2 := hi.two_le
  have hlt := hi.lt
  omega

/-- On an odd prime the order of `t` is below `2^M`, so the scan ends before its bound (R94). -/
theorem i_lt_m_of_prime {s : State} (hl : LoopInv s) (hpl : PrimeLoopInv s) (hc : s.ctrl = .tsIscan)
    (hp : Nat.Prime (opP s).toNat) (hp2 : opP s ≠ 2) : s.i.toNat < s.m.toNat := by
  obtain ⟨hm, hone, -⟩ := hpl.order (by rw [hc]; rfl) hp hp2
  by_contra hle
  rcases eq_or_lt_of_le hm with h1 | h1
  · rw [← h1, Nat.sub_self, pow_zero, pow_one] at hone
    exact hpl.notOne (.inl hc) hone
  · exact hl.scanMiss (.inl hc) (s.m.toNat - 1) (by omega) (by omega) hone

section

variable {s : State} (h : Inv s)
include h

theorem turn_tsLoop (hc : s.ctrl = .tsLoop) : ∃ t, engineTurn s = .next t ∧
    (((uval s.t : Int) - 1) % opP s = 0 ↔ uval s.t = 1) ∧
    (((uval s.t : Int) - 1) % opP s = 0 → t = { s with ctrl := .tsCanon }) ∧
    (((uval s.t : Int) - 1) % opP s ≠ 0 →
      (uval t.s : Int) = (uval s.t * uval s.t : Int) % opP s ∧
      t = { s with s := t.s, i := 1#32, ctrl := .tsIscan }) := by
  have hloop : AtLoop s := atLoop h (by rw [hc]; rfl)
  have hiff : ((uval s.t : Int) - 1) % opP s = 0 ↔ uval s.t = 1 := by
    have h3 := three_le_opP hloop.toAtInit
    have hlt := hloop.t_lt
    have hmod : ((uval s.t : Int) - 1) % opP s = 0 ↔ (uval s.t : Int) % opP s = 1 % opP s :=
      Int.emod_eq_emod_iff_emod_sub_eq_zero.symm
    rw [hmod, Int.emod_eq_of_lt (by omega) hlt, Int.emod_eq_of_lt (by omega) (by omega)]
    omega
  obtain ⟨t, ht, hs⟩ := exists_turn h (by rw [hc]; decide)
  simp only [engineStep, hc] at hs
  refine ⟨t, ht, hiff, ?_⟩
  obtain ⟨hp, ⟨ht1, rfl⟩ | ⟨ht1, rfl⟩⟩ := stepLoop_next hs
  · exact ⟨fun _ => rfl, fun hne => absurd ht1 hne⟩
  · exact ⟨fun heq => absurd heq ht1, fun _ => ⟨uval_enc_modmul h _ _ hp, rfl⟩⟩

theorem turn_tsIscan (hc : s.ctrl = .tsIscan) : ∃ t, engineTurn s = .next t ∧
    (s.m.toNat ≤ s.i.toNat → CompletesFrom s t .noConvergence false 0) ∧
    (s.i.toNat < s.m.toNat →
      (((uval s.s : Int) - 1) % opP s = 0 → t = { s with ctrl := .tsBcomp }) ∧
      (((uval s.s : Int) - 1) % opP s ≠ 0 →
        (uval t.s : Int) = (uval s.s * uval s.s : Int) % opP s ∧ t.i.toNat = s.i.toNat + 1 ∧
        t = { s with s := t.s, i := t.i })) := by
  have hrun : s.ctrl ≠ .idle := by rw [hc]; decide
  obtain ⟨t, ht, hs⟩ := exists_turn h hrun
  simp only [engineStep, hc] at hs
  refine ⟨t, ht, ?_⟩
  obtain ⟨hmi, rfl⟩ | ⟨him, hp, ⟨hv, rfl⟩ | ⟨hv, rfl⟩⟩ := stepIscan_next hs
  · exact ⟨fun _ => completesFrom_finishErr .noConvergence (noroot_eq_false h hrun), fun him => absurd him hmi.not_gt⟩
  · exact ⟨fun hmi => absurd him hmi.not_gt, fun _ => ⟨fun _ => rfl, fun hne => absurd hv hne⟩⟩
  · exact ⟨fun hmi => absurd him hmi.not_gt, fun _ => ⟨fun heq => absurd heq hv,
      fun _ => ⟨uval_enc_modmul h _ _ hp, toNat_i_add_one him, by rw [← hc]⟩⟩⟩

end

/-- Settles O24: each rule by its branches; the loop invariant says what S holds, and the prime loop invariant that a
power below the bound is 1. -/
theorem loopAndScanStates : Obligations.LoopAndScanStates := fun _ h hl =>
  ⟨fun hc => ⟨three_le_opP (atInit h (by rw [hc]; rfl)), turn_tsLoop h hc⟩,
    fun hc => ⟨hl.scanPower hc, fun hpl => i_lt_m_of_prime hl hpl hc, turn_tsIscan h hc⟩⟩

/-! ### TS_BCOMP, TS_UPDATE and TS_CANON (R95 to R97) -/

section

variable {s : State} (h : Inv s)
include h

theorem turn_tsBcomp (hc : s.ctrl = .tsBcomp) : s.i.toNat < s.m.toNat ∧ ∃ t, engineTurn s = .next t ∧
    (uval t.b : Int) = (uval s.c : Int) ^ 2 ^ (s.m.toNat - s.i.toNat - 1) % opP s ∧
    t = { s with b := t.b, ctrl := .tsUpdate } := by
  obtain ⟨t, ht, hs⟩ := exists_turn h (by rw [hc]; decide)
  simp only [engineStep, hc] at hs
  obtain ⟨him, hp, rfl⟩ := stepBcomp_next hs
  exact ⟨him, _, ht, uval_enc_modpow_eq_pow h _ _ hp, rfl⟩

theorem turn_tsUpdate (hc : s.ctrl = .tsUpdate) : s.i.toNat < s.m.toNat ∧ ∃ t, engineTurn s = .next t ∧
    (uval t.root : Int) = (uval s.root * uval s.b : Int) % opP s ∧
    (uval t.c : Int) = (uval s.b * uval s.b : Int) % opP s ∧
    (uval t.t : Int) = (uval s.t * uval t.c : Int) % opP s ∧
    t = { s with root := t.root, c := t.c, t := t.t, m := s.i, ctrl := .tsLoop } := by
  obtain ⟨t, ht, hs⟩ := exists_turn h (by rw [hc]; decide)
  simp only [engineStep, hc] at hs
  obtain ⟨hp, rfl⟩ := stepUpdate_next hs
  exact ⟨(atBcomp h (by rw [hc]; rfl)).i_lt, _, ht, uval_enc_modmul h _ _ hp, uval_enc_modmul h _ _ hp,
    uval_enc_modmul h _ _ hp, rfl⟩

theorem turn_tsCanon (hc : s.ctrl = .tsCanon) : ∃ t, engineTurn s = .next t ∧ (uval s.root : Int) < opP s ∧
    (1 ≤ uval s.root → uval t.result ≤ (opP s / 2).toNat) ∧
    CompletesFrom s t .none false (min (uval s.root : Int) (opP s - uval s.root)) := by
  have hrun : s.ctrl ≠ .idle := by rw [hc]; decide
  have hroot := h.canonRange hc
  have hval := uval_enc_min_root h hroot
  obtain ⟨t, ht, hs⟩ := exists_turn h hrun
  simp only [engineStep, hc] at hs
  obtain rfl := Host.Outcome.next.inj ((stepCanon_eq s).symm.trans hs)
  refine ⟨_, ht, hroot, fun _ => ?_, completesFrom_finishOk (err_eq_none h hrun) (noroot_eq_false h hrun) hval⟩
  rw [finishOk_result]
  omega

end

/-- Settles O25: each rule writes its values, which are below the modulus; the smaller of two numbers with sum `p` is at
most `p / 2`. -/
theorem updateAndCanonStates : Obligations.UpdateAndCanonStates := fun _ h =>
  ⟨turn_tsBcomp h, turn_tsUpdate h, turn_tsCanon h⟩

/-! ### The errors (R110) -/

/-- The error that an engine step of TSQRT ends with, if any. -/
def raisedError (s : State) : ErrCode :=
  match s.ctrl with
  | .tsValidate => if opP s < 0 then .value else .none
  | .tsLegendre => if opP s = 0 then .modulusZero else .none
  | .tsWscan => if opP s ≤ uval s.z then .witnessNotFound else .none
  | .tsIscan => if s.m.toNat ≤ s.i.toNat then .noConvergence else .none
  | .idle | .mpExec | .lgExec | .tsZero | .tsDecomp | .tsFast | .tsInit | .tsLoop | .tsBcomp | .tsUpdate | .tsCanon =>
    .none

theorem raisedError_eq_value_iff (s : State) : raisedError s = .value ↔ s.ctrl = .tsValidate ∧ opP s < 0 := by
  unfold raisedError
  cases s.ctrl <;> simp [ite_eq_iff]

theorem raisedError_eq_modulusZero_iff (s : State) :
    raisedError s = .modulusZero ↔ s.ctrl = .tsLegendre ∧ opP s = 0 := by
  unfold raisedError
  cases s.ctrl <;> simp [ite_eq_iff]

theorem raisedError_eq_witnessNotFound_iff (s : State) :
    raisedError s = .witnessNotFound ↔ s.ctrl = .tsWscan ∧ opP s ≤ uval s.z := by
  unfold raisedError
  cases s.ctrl <;> simp [ite_eq_iff]

theorem raisedError_eq_noConvergence_iff (s : State) :
    raisedError s = .noConvergence ↔ s.ctrl = .tsIscan ∧ s.m.toNat ≤ s.i.toNat := by
  unfold raisedError
  cases s.ctrl <;> simp [ite_eq_iff]

/-- A step of TSQRT leaves `raisedError` in ERR. -/
theorem err_of_engineStep {s t : State} (he : s.err = .none) (hop : s.ctrl.opcode = 3#4)
    (hs : engineStep s = .next t) : t.err = raisedError s := by
  unfold raisedError
  cases hc : s.ctrl <;> simp only [engineStep, hc] at hs ⊢
  case idle => cases hs
  case mpExec | lgExec => rw [hc] at hop; cases hop
  case tsValidate =>
    obtain ⟨hp, rfl⟩ | ⟨hp, rfl⟩ := stepValidate_next hs
    · rw [if_pos hp, finishErr_err]
    · rw [if_neg hp.not_gt, he]
  case tsZero => obtain ⟨-, rfl⟩ | ⟨-, rfl⟩ := stepZero_next hs <;> exact he
  case tsLegendre =>
    obtain ⟨hp, rfl⟩ | ⟨hp, -, rfl⟩ | ⟨hp, -, rfl⟩ := stepLegendre_next hs
    · rw [if_pos hp, finishErr_err]
    · rw [if_neg hp.ne', finishNoroot_err, he]
    · rw [if_neg hp.ne', he]
  case tsDecomp => obtain ⟨-, rfl⟩ | ⟨-, -, rfl⟩ | ⟨-, -, rfl⟩ := stepDecomp_next hs <;> exact he
  case tsFast => obtain ⟨-, rfl⟩ := stepFast_next hs; exact he
  case tsWscan =>
    obtain ⟨hz, rfl⟩ | ⟨hz, -, rfl⟩ | ⟨hz, -, rfl⟩ := stepWscan_next hs
    · rw [if_pos hz, finishErr_err]
    · rw [if_neg hz.not_ge, he]
    · rw [if_neg hz.not_ge, he]
  case tsInit => obtain ⟨-, rfl⟩ := stepInit_next hs; exact he
  case tsLoop => obtain ⟨-, ⟨-, rfl⟩ | ⟨-, rfl⟩⟩ := stepLoop_next hs <;> exact he
  case tsIscan =>
    obtain ⟨hmi, rfl⟩ | ⟨him, -, ⟨-, rfl⟩ | ⟨-, rfl⟩⟩ := stepIscan_next hs
    · rw [if_pos hmi, finishErr_err]
    · rw [if_neg him.not_ge, he]
    · rw [if_neg him.not_ge, he]
  case tsBcomp => obtain ⟨-, -, rfl⟩ := stepBcomp_next hs; exact he
  case tsUpdate => obtain ⟨-, rfl⟩ := stepUpdate_next hs; exact he
  case tsCanon =>
    obtain rfl := Host.Outcome.next.inj ((stepCanon_eq s).symm.trans hs)
    exact he

/-- NoRootSignal carries no error (00_scope.md R12). -/
theorem err_of_noroot {s t : State} (he : s.err = .none) (hn : s.noroot = false) (hs : engineStep s = .next t)
    (ht : t.noroot = true) : t.err = .none := by
  cases engineCase_of_engineStep hs with
  | worksOn hw => exact hw.err.trans he
  | ok v l hl hv h => subst h; exact he
  | noroot x hc h => subst h; exact he
  | err e hhw h =>
    subst h
    rw [finishErr_noroot, hn] at ht
    cases ht

/-- Settles O26: ERR is the error of the state's own test, and the scans' invariants say what has failed by then. -/
theorem tsqrtErrorsByState : Obligations.TsqrtErrorsByState := by
  intro s t h hl hb hop ht
  obtain ⟨-, hn, he, hlast⟩ := h.running hb
  rw [engineTurn_of_busy hb] at ht
  rw [err_of_engineStep he (hlast.symm.trans hop) ht, raisedError_eq_value_iff, raisedError_eq_modulusZero_iff,
    raisedError_eq_witnessNotFound_iff, raisedError_eq_noConvergence_iff]
  refine ⟨Iff.rfl, ?_, Iff.rfl, ?_, Iff.rfl, ?_, fun hnr => ?_⟩
  · have hn0 : s.ctrl = .tsLegendre → opN s ≠ 0 := fun hc => h.nonzero (by rw [hc]; rfl)
    tauto
  · rintro ⟨hc, hz⟩ y hy hyp
    exact (atWscan h hc).smallest y hy (by omega)
  · rintro ⟨hc, hmi⟩ i hi him
    exact hl.scanMiss (.inl hc) i hi (by omega)
  · rw [← err_of_engineStep he (hlast.symm.trans hop) ht]
    exact err_of_noroot he hn ht hnr

/-! ### The frame (R109) -/

/-- Settles O28: each rule's successor state, written out, updates no other register. -/
theorem engineStepFrame : Obligations.EngineStepFrame := by
  intro s t hs
  cases hc : s.ctrl <;> simp only [engineStep, hc] at hs ⊢
  case idle => cases hs
  case mpExec =>
    obtain rfl := Host.Outcome.next.inj ((stepMpExec_eq s).symm.trans hs)
    split_ifs <;> rfl
  case lgExec =>
    obtain rfl := Host.Outcome.next.inj ((stepLgExec_eq s).symm.trans hs)
    split_ifs <;> rfl
  case tsValidate => obtain ⟨-, rfl⟩ | ⟨-, rfl⟩ := stepValidate_next hs <;> rfl
  case tsZero => obtain ⟨-, rfl⟩ | ⟨-, rfl⟩ := stepZero_next hs <;> rfl
  case tsLegendre => obtain ⟨-, rfl⟩ | ⟨-, -, rfl⟩ | ⟨-, -, rfl⟩ := stepLegendre_next hs <;> rfl
  case tsDecomp => obtain ⟨-, rfl⟩ | ⟨-, -, rfl⟩ | ⟨-, -, rfl⟩ := stepDecomp_next hs <;> rfl
  case tsFast => obtain ⟨-, rfl⟩ := stepFast_next hs; rfl
  case tsWscan => obtain ⟨-, rfl⟩ | ⟨-, -, rfl⟩ | ⟨-, -, rfl⟩ := stepWscan_next hs <;> rfl
  case tsInit => obtain ⟨-, rfl⟩ := stepInit_next hs; rfl
  case tsLoop => obtain ⟨-, ⟨-, rfl⟩ | ⟨-, rfl⟩⟩ := stepLoop_next hs <;> rfl
  case tsIscan => obtain ⟨-, rfl⟩ | ⟨-, -, ⟨-, rfl⟩ | ⟨-, rfl⟩⟩ := stepIscan_next hs <;> rfl
  case tsBcomp => obtain ⟨-, -, rfl⟩ := stepBcomp_next hs; rfl
  case tsUpdate => obtain ⟨-, rfl⟩ := stepUpdate_next hs; rfl
  case tsCanon =>
    obtain rfl := Host.Outcome.next.inj ((stepCanon_eq s).symm.trans hs)
    rfl

end Sys2Proof.StateRules

/-! ## What TSQRT leaves in the working registers (42_tonelli_shanks.md R107) -/

namespace Sys2Proof.WorkingRegisters

open Sys2Proof.Machine Sys2Proof.Laws Sys2Proof.StepCases Sys2Proof.EngineCases Sys2Proof.MachineInvariant
  Sys2Proof.TsqrtReadings Sys2Proof.LegendreCommand Sys2Proof.TsqrtRuns Sys2Proof.LoopInvariants Sys2Proof.WholeLoops

/-! ### What the steps so far have written -/

/-- No working register but L has been written. -/
def Unwritten (s : State) : Prop :=
  (∀ r ∈ [s.odd, s.z, s.c, s.t, s.root, s.s, s.b], uval r = 0) ∧ s.exponent = 0#32 ∧ s.m = 0#32 ∧ s.i = 0#32

/-- No register of the outer loop has been written. -/
def LoopUnwritten (s : State) : Prop :=
  (∀ r ∈ [s.c, s.t, s.root, s.s, s.b], uval r = 0) ∧ s.m = 0#32 ∧ s.i = 0#32

/-- TS_FAST has written ROOT, and nothing else beyond the decomposition has been written (R89). -/
def FastWritten (s : State) : Prop :=
  (uval s.root : Int) = opN s ^ ((opP s + 1) / 4).toNat % opP s ∧ (∀ r ∈ [s.z, s.c, s.t, s.s, s.b], uval r = 0) ∧
    s.m = 0#32 ∧ s.i = 0#32

/-- TS_INIT has written the loop's registers, and the loop's body has not run (R91). -/
def InitWritten (s : State) : Prop :=
  (uval s.c : Int) = (uval s.z : Int) ^ uval s.odd % opP s ∧
    (uval s.root : Int) = opN s ^ ((uval s.odd + 1) / 2) % opP s ∧ (uval s.t : Int) = opN s ^ uval s.odd % opP s ∧
    s.m = s.exponent ∧ uval s.s = 0 ∧ uval s.b = 0 ∧ s.i = 0#32

/-- The first inner scan is running (R93, R94). -/
def FirstScan (s : State) : Prop :=
  (opN s ^ uval s.odd - 1) % opP s ≠ 0 ∧ (uval s.t : Int) = opN s ^ uval s.odd % opP s ∧ s.m = s.exponent ∧
    uval s.b = 0

/-- The first inner scan has had its hit (R94). -/
def FirstHit (s : State) : Prop :=
  (opN s ^ uval s.odd - 1) % opP s ≠ 0 ∧
    ∃ i : Nat, 1 ≤ i ∧ i < s.exponent.toNat ∧ ((opN s ^ uval s.odd) ^ 2 ^ i - 1) % opP s = 0

/-- The loop is over: its body never ran where `n^ODD ≡ 1`, and B is unwritten where the first scan had no hit. -/
structure LoopOver (s : State) : Prop extends AtInit s where
  notFast : s.exponent ≠ 1#32
  bodyUnrun : (opN s ^ uval s.odd - 1) % opP s = 0 → InitWritten s
  scanExhausted : (∀ i : Nat, 1 ≤ i → i < s.exponent.toNat → ((opN s ^ uval s.odd) ^ 2 ^ i - 1) % opP s ≠ 0) →
    uval s.b = 0

/-- How TSQRT ends on a residue. -/
inductive ResidueEnd (s : State) : Prop where
  | fast (hd : AtFast s) (hw : FastWritten s)
  | scanFailed (hd : Decomposed s) (hne : s.exponent ≠ 1#32) (he : s.err = .witnessNotFound)
      (hz : (uval s.z : Int) = opP s) (hw : LoopUnwritten s)
  | loopOver (he : s.err ≠ .witnessNotFound) (hw : LoopOver s)

/-- How TSQRT ends. -/
inductive Ended (s : State) : Prop where
  | early (hpn : opP s ≤ 0 ∨ opN s = 0) (hl : uval s.l = 0) (hw : Unwritten s)
  | noroot (hp : 1 ≤ opP s) (hn : opN s ≠ 0) (hne : legendre (opN s) (opP s) ≠ 1)
      (hl : (uval s.l : Int) = legendre (opN s) (opP s)) (hw : Unwritten s)
  | residue (h : ResidueEnd s)

/-- What TSQRT has written by the time it comes to a controller state. -/
def Written : CtrlState → State → Prop
  | .idle, s => Ended s
  | .mpExec, _ | .lgExec, _ => False
  | .tsValidate, s | .tsZero, s | .tsLegendre, s => uval s.l = 0 ∧ Unwritten s
  | .tsDecomp, s | .tsFast, s => uval s.z = 0 ∧ LoopUnwritten s
  | .tsWscan, s | .tsInit, s => s.exponent ≠ 1#32 ∧ LoopUnwritten s
  | .tsLoop, s => s.exponent ≠ 1#32 ∧ (InitWritten s ∨ FirstHit s)
  | .tsIscan, s => s.exponent ≠ 1#32 ∧ (FirstScan s ∨ FirstHit s)
  | .tsBcomp, s | .tsUpdate, s => s.exponent ≠ 1#32 ∧ FirstHit s
  | .tsCanon, s => AtFast s ∧ FastWritten s ∨ LoopOver s

section

variable {s t : State}

theorem Unwritten.loopUnwritten (h : Unwritten s) : uval s.z = 0 ∧ LoopUnwritten s := by
  obtain ⟨hw, -, hm, hi⟩ := h
  exact ⟨hw _ (by simp), fun r hr => hw r (.tail _ (.tail _ hr)), hm, hi⟩

theorem InitWritten.loopOver (hi : AtInit s) (hne : s.exponent ≠ 1#32) (h : InitWritten s) : LoopOver s :=
  have ⟨_, _, _, _, _, hb, _⟩ := h
  { hi with notFast := hne, bodyUnrun := fun _ => h, scanExhausted := fun _ => hb }

theorem FirstScan.loopOver (hi : AtInit s) (hne : s.exponent ≠ 1#32) (h : FirstScan s) : LoopOver s :=
  have ⟨hone, _, _, hb⟩ := h
  { hi with notFast := hne, bodyUnrun := fun h1 => absurd h1 hone, scanExhausted := fun _ => hb }

theorem FirstHit.loopOver (hi : AtInit s) (hne : s.exponent ≠ 1#32) (h : FirstHit s) : LoopOver s :=
  have ⟨hone, i, h1, hie, hhit⟩ := h
  { hi with
    notFast := hne
    bodyUnrun := fun h1 => absurd h1 hone
    scanExhausted := fun hmiss => absurd hhit (hmiss i h1 hie) }

/-! ### Every engine step writes what its state's rule says -/

theorem written_of_stepValidate (hw : uval s.l = 0 ∧ Unwritten s) (hs : stepValidate s = .next t) :
    Written t.ctrl t := by
  obtain ⟨hp, rfl⟩ | ⟨-, rfl⟩ := stepValidate_next hs
  · exact .early (.inl hp.le) hw.1 hw.2
  · exact hw

theorem written_of_stepZero (hw : uval s.l = 0 ∧ Unwritten s) (hs : stepZero s = .next t) : Written t.ctrl t := by
  obtain ⟨hn, rfl⟩ | ⟨-, rfl⟩ := stepZero_next hs
  · exact .early (.inr hn) hw.1 hw.2
  · exact hw

theorem written_of_stepDecomp (hw : uval s.z = 0 ∧ LoopUnwritten s) (hs : stepDecomp s = .next t) :
    Written t.ctrl t := by
  obtain ⟨-, rfl⟩ | ⟨-, -, rfl⟩ | ⟨-, hne, rfl⟩ := stepDecomp_next hs
  · exact hw
  · exact hw
  · exact ⟨hne, hw.2⟩

variable (h : Inv s)
include h

theorem written_of_stepLegendre (hc : s.ctrl = .tsLegendre) (hw : uval s.l = 0 ∧ Unwritten s)
    (hs : stepLegendre s = .next t) : Written t.ctrl t := by
  obtain ⟨hp, rfl⟩ | ⟨hp, hl, rfl⟩ | ⟨-, -, rfl⟩ := stepLegendre_next hs
  · exact .early (.inl hp.le) hw.1 hw.2
  · exact .noroot hp (h.nonzero (by rw [hc]; rfl)) hl (uval_enc_legendre h _ hp) hw.2
  · exact hw.2.loopUnwritten

theorem written_of_stepFast (hc : s.ctrl = .tsFast) (hw : uval s.z = 0 ∧ LoopUnwritten s)
    (hs : stepFast s = .next t) : Written t.ctrl t := by
  have hd : AtFast s := { decomposed h (by rw [hc]; rfl) with exponent := h.fastPath hc }
  obtain ⟨hp, rfl⟩ := stepFast_next hs
  obtain ⟨hz, hzero, hm, hi⟩ := hw
  have hroot := uval_enc_modpow_eq_pow h (opN s) ((opP s + 1) / 4).toNat hp
  simp only [List.forall_mem_cons] at hzero
  obtain ⟨hc0, ht0, -, hs0, hb0, -⟩ := hzero
  exact .inl ⟨{ hd with }, hroot, by simp [hz, hc0, ht0, hs0, hb0], hm, hi⟩

theorem written_of_stepWscan (hc : s.ctrl = .tsWscan) (hw : s.exponent ≠ 1#32 ∧ LoopUnwritten s)
    (hs : stepWscan s = .next t) : Written t.ctrl t := by
  have hscan := atWscan h hc
  obtain ⟨hz, rfl⟩ | ⟨-, -, rfl⟩ | ⟨-, -, rfl⟩ := stepWscan_next hs
  · exact .residue (.scanFailed { hscan with } hw.1 rfl (le_antisymm hscan.le hz) hw.2)
  · exact hw
  · exact hw

theorem written_of_stepInit (hw : s.exponent ≠ 1#32 ∧ LoopUnwritten s) (hs : stepInit s = .next t) :
    Written t.ctrl t := by
  obtain ⟨hp, rfl⟩ := stepInit_next hs
  obtain ⟨hne, hzero, -, hi⟩ := hw
  exact ⟨hne, .inl ⟨uval_enc_modpow_eq_pow h _ _ hp, uval_enc_modpow_eq_pow h _ _ hp,
    uval_enc_modpow_eq_pow h _ _ hp, rfl, hzero s.s (by simp), hzero s.b (by simp), hi⟩⟩

theorem written_of_stepLoop (hc : s.ctrl = .tsLoop) (hw : s.exponent ≠ 1#32 ∧ (InitWritten s ∨ FirstHit s))
    (hs : stepLoop s = .next t) : Written t.ctrl t := by
  have hinit : AtInit s := atInit h (by rw [hc]; rfl)
  obtain ⟨hne, hw⟩ := hw
  obtain ⟨-, ⟨-, rfl⟩ | ⟨ht, rfl⟩⟩ := stepLoop_next hs
  · have hover : LoopOver s := hw.elim (·.loopOver hinit hne) (·.loopOver hinit hne)
    exact .inr { hover with }
  · refine ⟨hne, hw.imp_left fun hinitw => ?_⟩
    obtain ⟨-, -, htval, hm, -, hb, -⟩ := hinitw
    rw [htval, Int.emod_sub_emod] at ht
    exact ⟨ht, htval, hm, hb⟩

/-- A hit of the first scan is an `i` with `(n^ODD)^(2^i) ≡ 1` below EXPONENT. -/
theorem FirstScan.firstHit (hl : LoopInv s) (hc : s.ctrl = .tsIscan) (hw : FirstScan s)
    (him : s.i.toNat < s.m.toNat) (hv : ((uval s.s : Int) - 1) % opP s = 0) : FirstHit s := by
  obtain ⟨hone, ht, hm, -⟩ := hw
  refine ⟨hone, s.i.toNat, (h.scanRange hc).1, hm ▸ him, ?_⟩
  have hpow : (opN s ^ uval s.odd) ^ 2 ^ s.i.toNat ≡ (uval s.t : Int) ^ 2 ^ s.i.toNat [ZMOD opP s] := by
    rw [ht]
    exact (Int.mod_modEq _ _).symm.pow _
  rw [s_sub_one_emod hl hc] at hv
  exact Eq.trans (hpow.sub_right 1) hv

theorem written_of_stepIscan (hl : LoopInv s) (hc : s.ctrl = .tsIscan)
    (hw : s.exponent ≠ 1#32 ∧ (FirstScan s ∨ FirstHit s)) (hs : stepIscan s = .next t) : Written t.ctrl t := by
  have hinit : AtInit s := atInit h (by rw [hc]; rfl)
  obtain ⟨hne, hw⟩ := hw
  obtain ⟨-, rfl⟩ | ⟨him, -, ⟨hv, rfl⟩ | ⟨-, rfl⟩⟩ := stepIscan_next hs
  · have hover : LoopOver s := hw.elim (·.loopOver hinit hne) (·.loopOver hinit hne)
    exact .residue (.loopOver (show ErrCode.noConvergence ≠ .witnessNotFound by decide) { hover with })
  · have hhit : FirstHit s := hw.elim (fun hscan => hscan.firstHit h hl hc him hv) id
    exact ⟨hne, hhit⟩
  · exact ⟨hne, hw⟩

theorem written_of_stepCanon (hc : s.ctrl = .tsCanon) (hw : AtFast s ∧ FastWritten s ∨ LoopOver s)
    (hs : stepCanon s = .next t) : Written t.ctrl t := by
  have herr : s.err = .none := (h.running (StateRules.busy_of_ctrl h (by rw [hc]; decide))).2.2.1
  obtain rfl := Host.Outcome.next.inj ((stepCanon_eq s).symm.trans hs)
  obtain ⟨hd, hw⟩ | hover := hw
  · exact .residue (.fast { hd with } hw)
  · exact .residue (.loopOver (by rw [finishOk_err, herr]; decide) { hover with })

/-- Every engine step of TSQRT keeps the account of what has been written. -/
theorem written_of_engineStep (hl : LoopInv s) (hw : Written s.ctrl s) (hs : engineStep s = .next t) :
    Written t.ctrl t := by
  cases hc : s.ctrl <;> simp only [engineStep, hc] at hs <;> rw [hc] at hw
  case idle => cases hs
  case mpExec | lgExec => exact hw.elim
  case tsValidate => exact written_of_stepValidate hw hs
  case tsZero => exact written_of_stepZero hw hs
  case tsLegendre => exact written_of_stepLegendre h hc hw hs
  case tsDecomp => exact written_of_stepDecomp hw hs
  case tsFast => exact written_of_stepFast h hc hw hs
  case tsWscan => exact written_of_stepWscan h hc hw hs
  case tsInit => exact written_of_stepInit h hw hs
  case tsLoop => exact written_of_stepLoop h hc hw hs
  case tsIscan => exact written_of_stepIscan h hl hc hw hs
  case tsBcomp => obtain ⟨-, -, rfl⟩ := stepBcomp_next hs; exact hw
  case tsUpdate =>
    obtain ⟨-, rfl⟩ := stepUpdate_next hs
    exact ⟨hw.1, .inr hw.2⟩
  case tsCanon => exact written_of_stepCanon h hc hw hs

end

/-! ### At the completion -/

/-- What every turn of the engine keeps of the command accepted in `s₀`. -/
structure Account (s₀ s : State) : Prop extends HostFrame s₀ s where
  inv : Inv s
  loopInv : LoopInv s
  written : Written s.ctrl s

theorem hostFrame_trans {r s t : State} (h : HostFrame r s) (h' : HostFrame s t) : HostFrame r t :=
  ⟨h'.k.trans h.k, h'.opa.trans h.opa, h'.opb.trans h.opb, h'.ope.trans h.ope, h'.ln.trans h.ln, h'.lp.trans h.lp,
    h'.le.trans h.le, h'.lastop.trans h.lastop, h'.overrun.trans h.overrun, h'.inputs.trans h.inputs,
    h'.response.trans h.response, h'.stalled.trans h.stalled⟩

theorem Account.turn {s₀ s t : State} (h : Account s₀ s) (hs : engineTurn s = .next t) : Account s₀ t := by
  obtain ⟨-, rfl⟩ | ⟨hb, hs⟩ := engineTurn_next hs
  · exact h
  · have hf := (engineCase_of_engineStep hs).hostFrame
    exact
      { hostFrame_trans h.toHostFrame hf with
        inv := inv_of_engineStep h.inv hb hs
        loopInv := loopInv_of_engineStep h.inv h.loopInv hs
        written := written_of_engineStep h.inv h.loopInv h.written hs }

/-- The accept clears the working registers (10_state.md R34). -/
theorem account_acceptLegal {s : State} (h : Inv s) :
    Account (acceptLegal 3#4 .tsValidate s) (acceptLegal 3#4 .tsValidate s) where
  inv := inv_acceptLegal h .tsqrt
  loopInv := loopInv_of_not_looping rfl
  written := ⟨by simp, by simp, rfl, rfl, rfl⟩

section

variable {u : State}

theorem l_eq_legendre_of_atDecomp (hd : AtDecomp u) : (uval u.l : Int) = legendre (opN u) (opP u) := by
  rw [hd.legendre, hd.value]
  rfl

theorem ResidueEnd.decomposed : ResidueEnd u → Decomposed u
  | .fast hd _ => hd.toDecomposed
  | .scanFailed hd _ _ _ _ => hd
  | .loopOver _ hw => hw.toDecomposed

/-- Neither an early test nor the residue test has ended the command, where all three have passed. -/
theorem Ended.residueEnd (h : Ended u) (hp : 1 ≤ opP u) (hn : opN u ≠ 0) (hl : legendre (opN u) (opP u) = 1) :
    ResidueEnd u := by
  cases h with
  | early hpn hl' hw => exact absurd hpn (by omega)
  | noroot hp hn hne hl' hw => exact absurd hl hne
  | residue h => exact h

theorem Ended.l_eq_zero (h : Ended u) (hpn : opP u ≤ 0 ∨ opN u = 0) : uval u.l = 0 := by
  cases h with
  | early _ hl hw => exact hl
  | noroot hp hn hne hl hw => exact absurd hpn (by omega)
  | residue h =>
    have hd := h.decomposed
    have hp := hd.modulus
    have hn := hd.operand
    exact absurd hpn (by omega)

theorem Ended.l_eq_legendre (h : Ended u) (hp : 1 ≤ opP u) (hn : opN u ≠ 0) :
    (uval u.l : Int) = legendre (opN u) (opP u) := by
  cases h with
  | early hpn hl hw => exact absurd hpn (by omega)
  | noroot _ _ hne hl hw => exact hl
  | residue h => exact l_eq_legendre_of_atDecomp h.decomposed.toAtDecomp

theorem Ended.unwritten (h : Ended u) (hend : opP u ≤ 0 ∨ opN u = 0 ∨ legendre (opN u) (opP u) ≠ 1) :
    Unwritten u := by
  cases h with
  | early _ hl hw => exact hw
  | noroot _ _ _ hl hw => exact hw
  | residue h =>
    have hd := h.decomposed
    have hp := hd.modulus
    have hn := hd.operand
    have hl := hd.legendre
    omega

theorem ResidueEnd.fastWritten (h : ResidueEnd u) (hone : u.exponent.toNat = 1) : FastWritten u := by
  have hexp : u.exponent = 1#32 := BitVec.eq_of_toNat_eq hone
  cases h with
  | fast hd hw => exact hw
  | scanFailed hd hne he hz hw => exact absurd hexp hne
  | loopOver he hw => exact absurd hexp hw.notFast

theorem ResidueEnd.of_witnessNotFound (h : ResidueEnd u) (hne : u.exponent.toNat ≠ 1) (he : u.err = .witnessNotFound) :
    (uval u.z : Int) = opP u ∧ LoopUnwritten u := by
  cases h with
  | fast hd hw => exact absurd (congrArg BitVec.toNat hd.exponent) hne
  | scanFailed hd hne he hz hw => exact ⟨hz, hw⟩
  | loopOver he' hw => exact absurd he he'

theorem ResidueEnd.loopOver_of_err (h : ResidueEnd u) (hne : u.exponent.toNat ≠ 1)
    (he : u.err ≠ .witnessNotFound) : LoopOver u := by
  cases h with
  | fast hd hw => exact absurd (congrArg BitVec.toNat hd.exponent) hne
  | scanFailed hd hne he' hz hw => exact absurd he' he
  | loopOver he' hw => exact hw

/-- The whole-command scan finds the machine's witness, for both are the smallest (R106). -/
theorem witness_eq_some (hi : AtInit u) : witness (opP u) (opP u).toNat 2 = some (uval u.z : Int) := by
  have h2 := hi.two_le
  have hmin := hi.smallest
  cases hw : witness (opP u) (opP u).toNat 2 with
  | none => exact absurd hi.witness (witness_none hw (by omega) _ (by omega) hi.lt)
  | some w =>
    obtain ⟨hw2, -, hleg, hwmin⟩ := witness_some hw
    lift w to Nat using by omega
    have hle : ¬ w < uval u.z := fun hlt => hmin w (by omega) hlt hleg
    have hge : ¬ (uval u.z : Int) < w := fun hlt => hwmin _ (by omega) hlt hi.witness
    congr 1
    omega

theorem outcome_err_iff {o : CmdOutcome} {e : ErrCode} (ho : outcomeOf u = some o) (he : e ≠ .none) :
    o = .err e ↔ u.err = e := by
  unfold outcomeOf at ho
  split_ifs at ho with hdone herr hn
  · obtain rfl := Option.some.inj ho
    simp
  all_goals
    obtain rfl := Option.some.inj ho
    simp [not_not.mp herr, he.symm]

end

/-- Settles O12: each engine step keeps the account of what has been written so far, and the account of a completed
command says what its outcome leaves in the working registers. -/
theorem tsqrtWorkingRegistersAtCompletion : Obligations.TsqrtWorkingRegistersAtCompletion := by
  intro s n p h hb hn hp
  obtain ⟨u, hu, ho⟩ := tsqrt_completesIn h
  have hacc := engineRun_induction (fun _ _ => Account.turn) (account_acceptLegal h) hu.run
  have hend : Ended u := by
    have hw := hacc.written
    rwa [hacc.inv.busyCtrl.mp hu.idle] at hw
  have hopN : opN u = n := by rw [opN, hacc.k, hacc.ln, hn]; rfl
  have hopP : opP u = p := by rw [opP, hacc.k, hacc.lp, hp]; rfl
  rw [← hn, ← hp] at hu ho
  have herr := outcome_err_iff (e := .witnessNotFound) ho (by decide)
  subst hopN hopP
  refine ⟨_, u, exec_of_idle hb .tsqrt, hu.run, hu.idle, hacc.ln, hacc.lp, hacc.le, hend.l_eq_zero,
    hend.l_eq_legendre, hend.unwritten, fun hp1 hn0 hl => ?_⟩
  have hres := hend.residueEnd hp1 hn0 hl
  have hd := hres.decomposed
  refine ⟨hd.oddPart, hd.product, hres.fastWritten, fun hne he => hres.of_witnessNotFound hne (herr.mp he),
    fun hne he => ?_⟩
  have hover := hres.loopOver_of_err hne (mt herr.mpr he)
  exact ⟨witness_eq_some hover.toAtInit, hover.bodyUnrun, hover.scanExhausted⟩

end Sys2Proof.WorkingRegisters

/-! ## The host driver: its type check, and the commands it issues (60_exceptions.md R125, R126) -/

namespace Sys2Proof.HostDriver

open Sys2Proof.Machine Sys2Proof.ModpowCore Sys2Proof.LegendreCommand Sys2Proof.WholeCommand

/-! ### Operands that fit -/

theorem fitsSigned_iff {k : Nat} {x : Int} :
    fitsSigned k x = true ↔ -(2 ^ (bitWidth k - 1)) ≤ x ∧ x < 2 ^ (bitWidth k - 1) :=
  decide_eq_true_iff

theorem fitsUnsigned_iff {k : Nat} {x : Int} : fitsUnsigned k x = true ↔ 0 ≤ x ∧ x < 2 ^ bitWidth k :=
  decide_eq_true_iff

theorem fitsUnsigned_natCast {k e : Nat} (he : ¬ 2 ^ bitWidth k ≤ e) : fitsUnsigned k e = true :=
  fitsUnsigned_iff.mpr ⟨Int.natCast_nonneg e, by exact_mod_cast not_le.mp he⟩

theorem fitsUnsigned_zero (k : Nat) : fitsUnsigned k (0 : Nat) = true :=
  fitsUnsigned_natCast (Nat.two_pow_pos _).not_ge

/-- The operands the driver puts in place of others: −1, 1, the modulus and the residues by it. -/
theorem fitsSigned_of_range {k : Nat} {x : Int} (h0 : -1 ≤ x) (hx : x ≤ maxModulus k) : fitsSigned k x = true := by
  have hpos : (0 : Int) < 2 ^ (bitWidth k - 1) := by positivity
  unfold maxModulus at hx
  rw [fitsSigned_iff]
  omega

theorem one_le_maxModulus {k : Nat} (hk : 1 ≤ k) : 1 ≤ maxModulus k := by
  have hpow : (2 : Int) ^ 1 ≤ 2 ^ (bitWidth k - 1) := pow_le_pow_right₀ (by decide) (by unfold bitWidth; omega)
  unfold maxModulus
  omega

theorem ne_zero_of_not_fits {k : Nat} (hk : 1 ≤ k) {n : Int} (hn : ¬ fitsSigned k n = true) : n ≠ 0 := by
  rintro rfl
  have := one_le_maxModulus hk
  exact hn (fitsSigned_of_range (by decide) (by omega))

/-! ### What the driver puts in place of an operand -/

section

variable {k : Nat}

theorem fitsSigned_negativeModulus (hk : 1 ≤ k) (p : Int) : fitsSigned k (negativeModulus k p) = true := by
  have := one_le_maxModulus hk
  unfold negativeModulus
  split_ifs with hfit
  · exact hfit
  · exact fitsSigned_of_range le_rfl (by omega)

theorem negativeModulus_neg {p : Int} (hp : p < 0) : negativeModulus k p < 0 := by
  unfold negativeModulus
  split_ifs
  · exact hp
  · decide

theorem fitsSigned_unusedOperand (hk : 1 ≤ k) (n : Int) : fitsSigned k (unusedOperand k n) = true := by
  unfold unusedOperand
  split_ifs with hfit
  · exact hfit
  · exact fitsSigned_of_range (by decide) (one_le_maxModulus hk)

theorem unusedOperand_ne_zero {n : Int} (hn : n ≠ 0) : unusedOperand k n ≠ 0 := by
  unfold unusedOperand
  split_ifs
  · exact hn
  · exact one_ne_zero

theorem fitsSigned_emod {m : Int} (hm : 0 < m) (hmax : m ≤ maxModulus k) (b : Int) : fitsSigned k (b % m) = true := by
  have h0 := Int.emod_nonneg b hm.ne'
  have hlt := Int.emod_lt_of_pos b hm
  exact fitsSigned_of_range (by omega) (by omega)

theorem fitsSigned_tsqrtOperand (hk : 1 ≤ k) {p : Int} (hp : 0 ≤ p) (hmax : p ≤ maxModulus k) (n : Int) :
    fitsSigned k (tsqrtOperand k n p) = true := by
  unfold tsqrtOperand
  split_ifs with hfit hp0 hr
  · exact hfit
  · exact fitsSigned_of_range (by decide) (one_le_maxModulus hk)
  · exact fitsSigned_of_range (by omega) hmax
  · exact fitsSigned_emod (by omega) hmax n

/-- A nonzero `n` never becomes the literal zero (R126 case 3). -/
theorem tsqrtOperand_ne_zero {n : Int} (hn : n ≠ 0) (p : Int) : tsqrtOperand k n p ≠ 0 := by
  unfold tsqrtOperand
  split_ifs with hfit hp0 hr
  · exact hn
  · exact one_ne_zero
  · exact hp0
  · exact hr

theorem fitsSigned_baseOperand (hk : 1 ≤ k) {m : Int} (hm : 0 ≤ m) (hmax : m ≤ maxModulus k) (b : Int) :
    fitsSigned k (baseOperand k b m) = true := by
  unfold baseOperand
  split_ifs with hfit hm0
  · exact hfit
  · exact fitsSigned_of_range (by decide) (one_le_maxModulus hk)
  · exact fitsSigned_emod (by omega) hmax b

/-! ### The outcome of the replaced operands -/

theorem tsqrt_of_neg {p : Int} (hp : p < 0) (n : Int) : tsqrt n p = .err .value := by
  simp [tsqrt, tsqrtRun, hp]

/-- All nonzero multiples of a modulus have one outcome (42_tonelli_shanks.md R102, R105). -/
theorem tsqrt_eq_of_dvd {a b p : Int} (hp : 1 ≤ p) (ha0 : a ≠ 0) (hb0 : b ≠ 0) (ha : p ∣ a) (hb : p ∣ b) :
    tsqrt a p = tsqrt b p := by
  obtain ⟨i, rfl⟩ := ha
  obtain ⟨j, rfl⟩ := hb
  obtain ⟨hi, hi2⟩ := tsqrtTakesOnlyLiteralZeroAsZero.2 i p (right_ne_zero_of_mul ha0) hp
  obtain ⟨hj, hj2⟩ := tsqrtTakesOnlyLiteralZeroAsZero.2 j p (right_ne_zero_of_mul hb0) hp
  rw [mul_comm p i, mul_comm p j]
  by_cases h2 : p = 2
  · rw [hi2 h2, hj2 h2]
  · rw [hi h2, hj h2]

theorem tsqrt_tsqrtOperand (hk : 1 ≤ k) {p : Int} (hp : 0 ≤ p) (n : Int) :
    tsqrt (tsqrtOperand k n p) p = tsqrt n p := by
  unfold tsqrtOperand
  split_ifs with hfit hp0 hr
  · rfl
  · rw [hp0, tsqrt_modulus_zero one_ne_zero, tsqrt_modulus_zero (ne_zero_of_not_fits hk hfit)]
  · exact tsqrt_eq_of_dvd (by omega) hp0 (ne_zero_of_not_fits hk hfit) dvd_rfl (Int.dvd_of_emod_eq_zero hr)
  · exact (tsqrtReducesItsOperand.1 n p (by omega) (.inr hr)).symm

theorem modpowCmd_of_neg {m : Int} (hm : m < 0) (b : Int) (e : Nat) : modpowCmd b e m = .err .value := if_pos hm

theorem modpowCmd_modulus_zero (b : Int) (e : Nat) : modpowCmd b e 0 = .err .modulusZero := rfl

theorem modpowCmd_emod (b : Int) (e : Nat) (m : Int) : modpowCmd (b % m) e m = modpowCmd b e m := by
  rw [modpowCmd, modpowCmd, modpow_emod]

theorem modpowCmd_baseOperand (b : Int) (e : Nat) (m : Int) : modpowCmd (baseOperand k b m) e m = modpowCmd b e m := by
  unfold baseOperand
  split_ifs with hfit hm0
  · rfl
  · rw [hm0, modpowCmd_modulus_zero, modpowCmd_modulus_zero]
  · exact modpowCmd_emod b e m

/-- LEGENDRE is MODPOW with Euler's exponent, the checks of the modulus included (41_legendre.md R77, R78). -/
theorem legendreCmd_eq_modpowCmd (a p : Int) : legendreCmd a p = modpowCmd a ((p - 1) / 2).toNat p := rfl

/-! ### The driver's cases, call by call (R126) -/

/-- TSQRT on a modulus that fits, or on a negative one. -/
theorem driveTsqrtInt_issues (hk : 1 ≤ k) (n : Int) {p : Int} (hmax : p ≤ maxModulus k) :
    ∃ a b, driveTsqrtInt k n p = .issue .tsqrt a b 0 ∧ fitsSigned k a = true ∧ fitsSigned k b = true ∧
      (n ≠ 0 → a ≠ 0) ∧ tsqrt a b = tsqrt n p := by
  unfold driveTsqrtInt
  split_ifs with hneg hwide
  · exact ⟨_, _, rfl, fitsSigned_unusedOperand hk n, fitsSigned_negativeModulus hk p, unusedOperand_ne_zero,
      by rw [tsqrt_of_neg (negativeModulus_neg hneg), tsqrt_of_neg hneg]⟩
  · omega
  · exact ⟨_, _, rfl, fitsSigned_tsqrtOperand hk (by omega) hmax n, fitsSigned_of_range (by omega) hmax,
      (tsqrtOperand_ne_zero · p), tsqrt_tsqrtOperand hk (by omega) n⟩

theorem driveLegendreInt_issues (hk : 1 ≤ k) (a : Int) {p : Int} (hmax : p ≤ maxModulus k) :
    ∃ a' p', driveLegendreInt k a p = .issue .legendre a' p' 0 ∧ fitsSigned k a' = true ∧ fitsSigned k p' = true ∧
      legendreCmd a' p' = legendreCmd a p := by
  simp only [legendreCmd_eq_modpowCmd]
  unfold driveLegendreInt
  split_ifs with hneg hwide
  · exact ⟨_, _, rfl, fitsSigned_unusedOperand hk a, fitsSigned_negativeModulus hk p,
      by rw [modpowCmd_of_neg (negativeModulus_neg hneg), modpowCmd_of_neg hneg]⟩
  · omega
  · exact ⟨_, _, rfl, fitsSigned_baseOperand hk (by omega) hmax a, fitsSigned_of_range (by omega) hmax,
      modpowCmd_baseOperand a _ p⟩

/-- MODPOW on an exponent that fits, or beside a negative modulus, where the driver issues the exponent 0. -/
theorem driveModpowInt_issues (hk : 1 ≤ k) (b : Int) {e : Nat} {m : Int} (hmax : m ≤ maxModulus k)
    (he : m < 0 ∨ ¬ 2 ^ bitWidth k ≤ e) :
    ∃ b' m' e', driveModpowInt k b e m = .issue .modpow b' m' e' ∧ fitsSigned k b' = true ∧
      fitsSigned k m' = true ∧ fitsUnsigned k e' = true ∧ modpowCmd b' e' m' = modpowCmd b e m := by
  unfold driveModpowInt
  split_ifs with hneg hwide hexp
  · exact ⟨_, _, _, rfl, fitsSigned_unusedOperand hk b, fitsSigned_negativeModulus hk m, fitsUnsigned_zero k,
      by rw [modpowCmd_of_neg (negativeModulus_neg hneg), modpowCmd_of_neg hneg]⟩
  · omega
  · exact absurd hexp (he.resolve_left hneg)
  · exact ⟨_, _, _, rfl, fitsSigned_baseOperand hk (by omega) hmax b, fitsSigned_of_range (by omega) hmax,
      fitsUnsigned_natCast hexp, modpowCmd_baseOperand b e m⟩

theorem driveTsqrtInt_of_wide (hk : 1 ≤ k) (n : Int) {p : Int} (hp : maxModulus k < p) :
    driveTsqrtInt k n p = .report .width := by
  have := one_le_maxModulus hk
  rw [driveTsqrtInt, if_neg (by omega), if_pos hp]

theorem driveLegendreInt_of_wide (hk : 1 ≤ k) (a : Int) {p : Int} (hp : maxModulus k < p) :
    driveLegendreInt k a p = .report .width := by
  have := one_le_maxModulus hk
  rw [driveLegendreInt, if_neg (by omega), if_pos hp]

theorem driveModpowInt_of_wide (b : Int) {e : Nat} {m : Int} (hm : 0 ≤ m)
    (hw : maxModulus k < m ∨ 2 ^ bitWidth k ≤ e) : driveModpowInt k b e m = .report .width := by
  rw [driveModpowInt, if_neg hm.not_gt]
  split_ifs with hwide hexp
  · rfl
  · rfl
  · exact absurd hw (not_or.mpr ⟨hwide, hexp⟩)

end

/-- Settles O53: where the modulus, and MODPOW's exponent, fit or need not, the replaced operands have the call's outcome;
otherwise the driver reports WIDTH. -/
theorem driverKeepsTheOutcome : Obligations.DriverKeepsTheOutcome := by
  intro k hk
  refine ⟨fun n p => ?_, fun a p => ?_, fun b e m => ?_⟩
  · rcases le_or_gt p (maxModulus k) with hfit | hwide
    · exact .inl (driveTsqrtInt_issues hk n hfit)
    · exact .inr ⟨driveTsqrtInt_of_wide hk n hwide, hwide⟩
  · rcases le_or_gt p (maxModulus k) with hfit | hwide
    · exact .inl (driveLegendreInt_issues hk a hfit)
    · exact .inr ⟨driveLegendreInt_of_wide hk a hwide, hwide⟩
  · have hmax := one_le_maxModulus hk
    by_cases hw : 0 ≤ m ∧ (maxModulus k < m ∨ 2 ^ bitWidth k ≤ e)
    · obtain ⟨hm, hw⟩ := hw
      exact .inr ⟨driveModpowInt_of_wide b hm hw, hw⟩
    · exact .inl (driveModpowInt_issues hk b (by omega) (by omega))

/-! ### The type check (R125) -/

/-- Settles O55: the type of `n` is looked at first, and a report comes with no statement of the host. -/
theorem driverChecksTypesFirst : Obligations.DriverChecksTypesFirst := fun _ _ _ _ _ _ => ⟨rfl, rfl, rfl, rfl, rfl, rfl⟩

end Sys2Proof.HostDriver

/-! ## Commands on the operands that reset leaves -/

namespace Sys2Proof.AfterReset

open Sys2Proof.Machine Sys2Proof.Laws Sys2Proof.StepCases Sys2Proof.MachineInvariant Sys2Proof.ModpowCommand
  Sys2Proof.LegendreCommand Sys2Proof.TsqrtRuns Sys2Proof.StateRules

@[simp] theorem sval_zeroWide (k j : Nat) : sval k (zeroWide j) = 0 := by simp [sval]

/-- The literal-zero branch: TSQRT on `n = 0` completes in TS_ZERO, its second step, with RESULT = 0
(42_tonelli_shanks.md R85, R86, R102). -/
theorem tsqrt_completes_of_zero {s : State} (h : Inv s) (hb : s.busy = false) (hn : sval s.k s.opa = 0)
    (hp : 0 ≤ sval s.k s.opb) :
    ∃ t u, exec .tsqrt s = .next t ∧ engineRun 2 t = .next u ∧ Completed u .none false 0 := by
  have hacc := inv_acceptLegal h .tsqrt
  obtain ⟨v, hv, -, hgo⟩ := turn_tsValidate hacc rfl
  have hinv := inv_of_engineTurn hacc hv
  obtain rfl := hgo hp
  obtain ⟨u, hu, hzero, -⟩ := turn_tsZero hinv rfl
  exact ⟨_, u, exec_of_idle hb .tsqrt, (engineRun_succ hv).trans (engineRun_succ hu), (hzero hn).toCompleted⟩

/-- Settles O41: reset leaves the operands 0, so TSQRT takes its literal-zero branch, and the other two commands find
the modulus 0. -/
theorem commandsRightAfterReset : Obligations.CommandsRightAfterReset := by
  intro k h1 hk
  have hinv := inv_resetWith h1 hk
  have hzero : sval k (zeroWide k) = 0 := sval_zeroWide k k
  obtain ⟨tl, ul, hexecl, -, hturnl, -, hl, -⟩ := legendreComputesEulersPower.2 _ hinv rfl
  obtain ⟨tm, um, hexecm, -, hturnm, -, hm, -⟩ := modpowComputesThePower.2 _ hinv rfl
  exact ⟨tsqrt_completes_of_zero hinv rfl hzero hzero.ge, ⟨tl, ul, hexecl, engineRun_succ hturnl, (hl hzero).1⟩,
    ⟨tm, um, hexecm, engineRun_succ hturnm, hm hzero⟩⟩

end Sys2Proof.AfterReset

/-! ## Runs in which the engine never steps -/

namespace Sys2Proof.UnfairRuns

open Sys2Proof.Machine Sys2Proof.Laws Sys2Proof.StepCases Sys2Proof.Waits

theorem step_of_stalled {s : State} (hin : s.inputs = []) (hst : s.stalled = true) : step s = .next s :=
  (step_nil hin).trans (if_pos hst)

/-- Settles O49: the three cases of the next event. -/
theorem theEngineMovesWhenNothingElseDoes : Obligations.TheEngineMovesWhenNothingElseDoes := fun _ =>
  ⟨fun hin hst => (step_nil hin).trans (if_neg (by simp [hst])), step_of_stalled, fun _ hin => step_cons hin⟩

theorem core_run_of_stalled {s : State} (hin : s.inputs = []) (hst : s.stalled = true) (n : Nat) :
    Host.Core.run Sys2Proof.core n s = .next s := by
  induction n with
  | zero => rfl
  | succ n ih => exact (core_run_succ (step_of_stalled hin hst)).trans ih

/-- What every turn of a schedule keeps holds after each number of its turns. -/
theorem exists_systemAt_of_invariant {sch : Nat → Turn} {P : System → Prop}
    (hstep : ∀ n z, P z → ∃ w, systemTurn (sch n) z = .next w ∧ P w) {y : System} (hy : P y) (n : Nat) :
    ∃ z, systemAt sch n y = .next z ∧ P z := by
  induction n with
  | zero => exact ⟨y, rfl, hy⟩
  | succ n ih =>
    obtain ⟨z, hz, hP⟩ := ih
    obtain ⟨w, hw, hPw⟩ := hstep n z hP
    exact ⟨w, (systemAt_succ hz).trans hw, hPw⟩

/-- The host of `z` is in the `wait` at `a` for a running command, and the machine's registers are those of `s₀`. -/
structure Hangs (prog : List HostStmt) (a x : Nat) (s₀ : State) (z : System) : Prop extends InWait prog a x z where
  busy : z.dev.busy = true
  registers : registersOf z.dev = registersOf s₀

/-- A turn of the host that would end its `wait` needs an idle engine, and only the engine can become idle. -/
theorem Hangs.hostTurn {prog : List HostStmt} {a x l : Nat} {s₀ : State} {z : System} (hcode : WaitCode prog a x l)
    (h : Hangs prog a x s₀ z) : ∃ w, systemTurn .host z = .next w ∧ Hangs prog a x s₀ w := by
  obtain ⟨w, r, hturn, hdev, hend⟩ := h.toInWait.hostTurn hcode
  have hbusy : w.dev.busy = true := hdev ▸ h.busy
  have hreg : registersOf w.dev = registersOf s₀ := hdev ▸ h.registers
  obtain hpast | ⟨hin, -⟩ := hend
  · exact absurd (hbusy.symm.trans hpast.idle) (by decide)
  · exact ⟨w, hturn, { hin with busy := hbusy, registers := hreg }⟩

/-- Settles O52: a stalled step is the identity, and every turn of the host keeps the hang of its `wait`. -/
theorem unfairRunsHang : Obligations.UnfairRunsHang := by
  refine ⟨fun _ => core_run_of_stalled, fun y x l hat hb => ⟨fun hfair => ?_, fun n => ?_⟩⟩
  · obtain ⟨m, -, hm⟩ := hfair 0 y rfl hb
    cases hm
  · have hcode := waitCode_of_atWait hat
    have hstart : Hangs y.host.prog y.host.pc x y.dev y :=
      { inWait_of_lt ⟨hat.running, rfl⟩ le_rfl (by omega) with busy := hb, registers := rfl }
    obtain ⟨z, hz, hhang⟩ := exists_systemAt_of_invariant (fun _ _ h => h.hostTurn hcode) hstart n
    exact ⟨z, hz, hhang.registers, hhang.pc_ge, Nat.lt_succ_of_le hhang.pc_le⟩

end Sys2Proof.UnfairRuns
